-- ==== Sys2Proof/Word.lean ====
section
/-! DEFINITION. The vocabulary of the soft-spi engine: words, line levels, pins, the two variants,
the answers of the pin layer and of the slave, fault causes, and events (spec/00_scope.md, spec/10_state.md). -/

namespace Sys2Proof

/-- A word is an 8-bit unsigned value (R7); bit 7 is the most significant (R9). -/
abbrev Word := BitVec 8

/-- A line level (R10): `true` is 1 ("high"), `false` is 0 ("low"). -/
abbrev Level := Bool

/-- Level 1, the source's "logic-high" (R10). -/
abbrev Level.high : Level := true

/-- Level 0, the source's "low" (R10). -/
abbrev Level.low : Level := false

/-- The two variants, fixed when an engine is constructed (R2): full-duplex and half-duplex. -/
inductive Variant where
  | fd
  | hd
  deriving DecidableEq, Repr, Inhabited

/-- The lines of the two variants (R12, R20, R21). -/
inductive Pin where
  /-- clock output, both variants -/
  | sck
  /-- full-duplex data-out -/
  | mosi
  /-- full-duplex data-in -/
  | miso
  /-- half-duplex shared data line -/
  | sda
  deriving DecidableEq, Repr, Inhabited

/-- The pin layer's answer to one `Drive` (R13, R15). -/
inductive DriveAnswer where
  | ok
  | err
  deriving DecidableEq, Repr, Inhabited

/-- The answer to one `Sample` (R13, R14, R15). -/
inductive SampleAnswer where
  | high
  | low
  | err
  deriving DecidableEq, Repr, Inhabited

/-- The two causes a fault can have (R161). -/
inductive FaultCause where
  /-- fd.transfer with RX_LEN ≠ TX_LEN (R162) -/
  | lenMismatch
  /-- a CMD write whose key decodes to no operation (R163) -/
  | illegalCmd
  deriving DecidableEq, Repr, Inhabited

/-- One event of the engine (R13). -/
inductive Event where
  /-- `Drive(p, v, r)` -/
  | drive (p : Pin) (v : Level) (r : DriveAnswer)
  /-- `Sample(p, a)` -/
  | sample (p : Pin) (a : SampleAnswer)
  /-- `MemRead(addr, v)` -/
  | memRead (addr : Nat) (v : Word)
  /-- `MemWrite(addr, v)` -/
  | memWrite (addr : Nat) (v : Word)
  /-- `Complete(cmd, OK)`: OK is the only outcome a completed command has (R166) -/
  | complete (cmd : Word)
  /-- `Fault(cause)` -/
  | fault (cause : FaultCause)
  deriving DecidableEq, Repr, Inhabited

end Sys2Proof
end

