-- ==== Sys2Proof/Syntax.lean ====
section
/-! DEFINITION. The commands of the engine: one constructor per row of spec/opcode_table.json (R73). A command word
carries no operand; the operands are the registers RX_ADDR, RX_LEN, TX_ADDR and TX_LEN (R70, R75). -/

namespace Sys2Proof

/-- The ten operations, five for each variant (R1, R73). -/
inductive Instr where
  /-- fd.read (R120) -/
  | fdRead
  /-- fd.write (R122) -/
  | fdWrite
  /-- fd.transfer (R124) -/
  | fdTransfer
  /-- fd.transfer_in_place (R127) -/
  | fdTransferInPlace
  /-- fd.flush (R129) -/
  | fdFlush
  /-- hd.read (R140) -/
  | hdRead
  /-- hd.write (R142) -/
  | hdWrite
  /-- hd.transfer (R144) -/
  | hdTransfer
  /-- hd.transfer_in_place (R146) -/
  | hdTransferInPlace
  /-- hd.flush (R148) -/
  | hdFlush
  deriving DecidableEq, Repr, Inhabited

end Sys2Proof
end

