-- ==== Sys2Proof/Config.lean ====
section
/-! DEFINITION. What is fixed for one engine instance (R8), and the free values the spec leaves to the slave,
the pin layer and the platform: opaque constants without a body, so that no proof can see a value of one. -/

namespace Sys2Proof

/-- The construction parameters of one engine instance (R8). WORD_W is the constant 8 (R7). -/
structure Params where
  /-- VARIANT; CONFIG.VARIANT holds it (R30) -/
  variant   : Variant
  /-- ADDR_W, the width of a buffer-memory address; the spec leaves it OPEN -/
  addrW     : Nat
  /-- LEN_W, the width of RX_LEN and TX_LEN; the spec leaves it OPEN -/
  lenW      : Nat
  /-- PIN_ERRORS; the spec leaves it OPEN -/
  pinErrors : Bool
  deriving DecidableEq, Repr, Inhabited

namespace Config

/-- The instance that `State.reset` constructs. DESIGN CHOICE (log 1): the spec leaves VARIANT, ADDR_W and LEN_W open;
8 and 8 are the widths of its test vectors (95_test_vectors.md section 1), PIN_ERRORS = true is R8's default.
Every statement is about all parameters, never about these. -/
def params : Params := { variant := .fd, addrW := 8, lenW := 8, pinErrors := true }

/-- FREE VALUE (log 3): the pin layer's answer to a `Drive`, as a draw numbered `n`, over the history so far (R8, R15, I4). -/
opaque driveAnswer : Nat → List Event → Pin → Level → DriveAnswer

/-- FREE VALUE (log 3): the slave oracle's answer to a `Sample`, as a draw numbered `n`, over the history so far (R14, I5). -/
opaque sampleAnswer : Nat → List Event → Pin → SampleAnswer

/-- FREE VALUE (log 4): what a byte of buffer memory holds that nobody has written (R47: memory is initialised by the host). -/
opaque unwrittenByte : Nat → Word

/-- FREE VALUE (log 5): the physical level of a line that the engine has not driven, or whose last `Drive` was answered
err (R15, R27, I1 to I3). -/
opaque unknownLevel : Nat → List Event → Pin → Level

end Config
end Sys2Proof
end

