-- ==== Sys2Proof/WellFormed.lean ====
section
/-! DEFINITION. What is well formed: construction parameters, and an operation for an engine of a given variant. -/

namespace Sys2Proof

/-- R8: ADDR_W and LEN_W are natural numbers ≥ 1. -/
def Params.wf (p : Params) : Bool := decide (1 ≤ p.addrW) && decide (1 ≤ p.lenW)

/-- The variant whose engine has the operation (R2, R73: KEY[8]). -/
def Instr.variant : Instr → Variant
  | .fdRead | .fdWrite | .fdTransfer | .fdTransferInPlace | .fdFlush => .fd
  | .hdRead | .hdWrite | .hdTransfer | .hdTransferInPlace | .hdFlush => .hd

/-- An operation is well formed for an engine of variant `v` when it is one of that engine's five (R2, R79: the decoder
of one instance sees only keys with its own KEY[8]). -/
def Instr.wf (v : Variant) (i : Instr) : Bool := decide (i.variant = v)

end Sys2Proof
end

