-- ==== Sys2Proof/Decode.lean ====
section
/-! DEFINITION. The decoder of the 9-bit key (R73, R74), total and rejecting by name; and the encoder beside it. -/

namespace Sys2Proof

/-- Why a key is illegal (R78). -/
inductive Reject where
  /-- CMD.RSVD ≠ 0 (R71, R78) -/
  | reservedBits
  /-- CMD.OP is 0, 6 or 7 (R72, R78) -/
  | reservedOp
  /-- more than the nine bits a key has (R73) -/
  | notAKey
  deriving DecidableEq, Repr

/-- The outcome of decoding: an operation, or a named rejection. -/
inductive Decoded where
  | op (i : Instr)
  | reject (r : Reject)
  deriving DecidableEq, Repr

/-- The operation, where there is one. -/
def Decoded.toOption : Decoded → Option Instr
  | .op i => some i
  | .reject _ => none

/-- KEY[8] as a variant: 0 is FD and 1 is HD (R73). -/
def variantOfBit (b : Bool) : Variant := if b then .hd else .fd

/-- CONFIG.VARIANT as a bit: 0 = FD, 1 = HD (R30). -/
def bitOfVariant : Variant → Bool
  | .fd => false
  | .hd => true

/-- KEY[8:0] = {CONFIG.VARIANT, CMD[7:0]} (R73). -/
def keyOf (v : Variant) (c : Word) : BitVec 9 := BitVec.ofBool (bitOfVariant v) ++ c

/-- The operation of a variant with a given CMD.OP (R72, R74). -/
def decodeOp (v : Variant) (op : BitVec 3) : Decoded :=
  match op.toNat, v with
  | 1, .fd => .op .fdRead
  | 1, .hd => .op .hdRead
  | 2, .fd => .op .fdWrite
  | 2, .hd => .op .hdWrite
  | 3, .fd => .op .fdTransfer
  | 3, .hd => .op .hdTransfer
  | 4, .fd => .op .fdTransferInPlace
  | 4, .hd => .op .hdTransferInPlace
  | 5, .fd => .op .fdFlush
  | 5, .hd => .op .hdFlush
  | _, _ => .reject .reservedOp

/-- R74, total on every 9-bit key: KEY[7:3] must be zero, then KEY[2:0] selects the operation of variant KEY[8]. -/
def decodeKey (key : BitVec 9) : Decoded :=
  if key.extractLsb' 3 5 ≠ 0#5 then .reject .reservedBits
  else decodeOp (variantOfBit (key.getLsbD 8)) (key.extractLsb' 0 3)

/-- Decoding of any number of bits, given as a number: a key has nine (R73). -/
def decodeNat (w : Nat) : Decoded :=
  if w < 512 then decodeKey (BitVec.ofNat 9 w) else .reject .notAKey

/-- The host's question: the operation the decoder reads from the table's bits. The table's bit numbers are the key's
(bits 7..0 are CMD, bit 8 is CONFIG.VARIANT). -/
def decodeTableWord (nbits w : Nat) : Option Instr := (decodeNat (w % 2 ^ nbits)).toOption

/-- CMD.OP of an operation (R72). -/
def Instr.opcode : Instr → BitVec 3
  | .fdRead | .hdRead => 1#3
  | .fdWrite | .hdWrite => 2#3
  | .fdTransfer | .hdTransfer => 3#3
  | .fdTransferInPlace | .hdTransferInPlace => 4#3
  | .fdFlush | .hdFlush => 5#3

/-- The CMD byte of an operation: RSVD = 0b00000 above OP (R71). -/
def Instr.cmd (i : Instr) : Word := 0#5 ++ i.opcode

/-- The encoder: the key of an operation (R73). -/
def encode (i : Instr) : BitVec 9 := keyOf i.variant i.cmd

end Sys2Proof
end

