-- ==== Sys2Proof/Machine/State.lean ====
section
/-! DEFINITION. The state of the machine: the engine's lines, control registers and internal registers, the buffer
memory, the event history, and the inputs of the host, the pin layer and the slave (spec/10_state.md). -/

namespace Sys2Proof.Machine

/-- R39: the phases of one command. -/
inductive Phase where
  | idle
  | prep
  | load
  | drive
  | clkLow
  | clkHigh
  | sample
  | store
  | done
  | fault
  deriving DecidableEq, Repr, Inhabited

/-- A move of the host (R6 agent 2, R29, R62, R82, R190). -/
inductive HostMove where
  /-- `RegWrite(n, v)`; with `n = 3` it issues a command (R70) -/
  | regWrite (n : BitVec 3) (v : Nat)
  /-- `RegRead(n)` -/
  | regRead (n : BitVec 3)
  /-- the host writes a byte of buffer memory (R50, R193 item 5) -/
  | memWrite (addr : Nat) (v : Word)
  /-- the host reads a byte of buffer memory (R62) -/
  | memRead (addr : Nat)
  /-- a new engine of variant `v` is constructed on the same pins (R190, R192) -/
  | construct (v : Variant)
  deriving DecidableEq, Repr

/-- Buffer memory: the bytes somebody has written, by strictly rising address (R50). -/
abbrev Memory := List Host.Cell

/-- Why the machine has no step. None of these is an effect the spec gives a command. -/
inductive Fault where
  /-- Raised by `step` in IDLE when the host has no move to make: R97, no step is taken in IDLE without a command. Safe. -/
  | noHostMove
  /-- Raised by `step` and by every meaning in the FAULT phase when the host has no move to make: R97 and R168, FAULT has
  no step; and by an access of the host to buffer memory in FAULT: R160, the host stays blocked (log 11). Safe. -/
  | faultPhase
  /-- Raised by a meaning in a phase R99 never puts its command in; no run from reset reaches it. Safe. -/
  | noStepInPhase
  /-- Raised by `step` while busy when the op latch holds no operation; no run from reset reaches it. Safe. -/
  | opLatchIllegal
  /-- Raised by an access to an address R50 says does not exist (≥ 2^ADDR_W): by a host move, or by LOAD and STORE in
  states no run from reset reaches. Safe. -/
  | addressOutsideMemory
  deriving DecidableEq, Repr

/-- Why the model gives a command or a host move no step. -/
inductive Refusal where
  /-- Raised by an arm of `exec` that has no meaning yet. Safe. -/
  | notModelled (mnemonic : String)
  /-- Raised at acceptance: a range the command accesses does not lie within buffer memory (R57, R167). Safe. -/
  | rangeOutsideMemory
  /-- Raised at acceptance of fd.transfer: its nonempty ranges share an address (R58, R167). Safe. -/
  | rangesOverlap
  /-- Raised by a `RegWrite` in IDLE of CMD or an operand register whose value does not fit it: R80 calls such an operand
  an assembly error, and no rule gives the write a meaning (log 7). Safe. -/
  | valueTooWide
  deriving DecidableEq, Repr

/-- The machine. The fields down to `history` are the spec's; the last five are the model's own, for the inputs of
the agents around the engine (R6). -/
structure State where
  /-- the construction parameters, CONFIG.VARIANT among them (R8, R30); only a construction writes them -/
  params       : Params
  /-- the level last driven onto SCK (R26) -/
  sck          : Level
  /-- the level last driven onto MOSI, `none` for ⊥ (R27; FD only) -/
  mosi         : Option Level
  /-- the level last driven onto SDA (R28; HD only) -/
  sda          : Level
  /-- STATUS.BUSY (R31) -/
  busy         : Bool
  /-- STATUS.FAULT (R31) -/
  faulted      : Bool
  /-- CAUSE.CODE (R32) -/
  cause        : Word
  /-- RX_ADDR, an ADDR_W-bit register (R34) -/
  rxAddr       : Nat
  /-- RX_LEN, a LEN_W-bit register (R35) -/
  rxLen        : Nat
  /-- TX_ADDR, an ADDR_W-bit register (R36) -/
  txAddr       : Nat
  /-- TX_LEN, a LEN_W-bit register (R37) -/
  txLen        : Nat
  /-- the phase (R39) -/
  phase        : Phase
  /-- the latched operation code (R40) -/
  op           : BitVec 3
  /-- the index of the current word (R41) -/
  word         : Nat
  /-- the number of bits completed in the current word (R42) -/
  bit          : Nat
  /-- the outgoing word (R43) -/
  tx           : Word
  /-- the accumulating byte (R44) -/
  rx           : Word
  /-- buffer memory (R50) -/
  mem          : Memory
  /-- the event history, NEWEST FIRST (R13) -/
  history      : List Event
  /-- the moves the host has still to make, in order (R82) -/
  hostMoves    : List HostMove
  /-- the values the host's reads have returned, newest first -/
  hostReads    : List Nat
  /-- the pin layer's next answers, where they are given; after them the answer is free (log 3) -/
  driveScript  : List DriveAnswer
  /-- the slave's next answers, where they are given; after them the answer is free (log 3) -/
  sampleScript : List SampleAnswer
  /-- how many pin operations have been performed: it numbers the free values (log 3) -/
  draws        : Nat
  deriving DecidableEq, Repr

/-- The pin layer's answer to a `Drive` that no script answers; never err when PIN_ERRORS is false (R8, R15). -/
def freeDriveAnswer (p : Params) (n : Nat) (h : List Event) (pin : Pin) (v : Level) : DriveAnswer :=
  if p.pinErrors then Config.driveAnswer n h pin v else .ok

/-- The events of the reset sequence, newest first: Drive(SCK, 1), then for HD Drive(SDA, 1) (R190). -/
def resetHistory (p : Params) : List Event :=
  let h := [.drive .sck Level.high (freeDriveAnswer p 0 [] .sck Level.high)]
  match p.variant with
  | .fd => h
  | .hd => .drive .sda Level.high (freeDriveAnswer p 1 h .sda Level.high) :: h

/-- R190, R47: the state right after the construction of an engine with parameters `p`, with nothing written to buffer
memory and no input of another agent pending. The reset sequence has run as a whole (log 17). On FD the field `sda`, which is no state of that variant, holds 1. -/
def State.construct (p : Params) : State where
  params := p
  sck := Level.high
  mosi := none
  sda := Level.high
  busy := false
  faulted := false
  cause := 0#8
  rxAddr := 0
  rxLen := 0
  txAddr := 0
  txLen := 0
  phase := .idle
  op := 0#3
  word := 0
  bit := 0
  tx := 0#8
  rx := 0#8
  mem := []
  history := resetHistory p
  hostMoves := []
  hostReads := []
  driveScript := []
  sampleScript := []
  draws := (resetHistory p).length

/-- The machine right after reset (R190), of the instance Config names (log 1). -/
def State.reset : State := State.construct Config.params

/-- The three outcomes of a step of this machine. -/
abbrev Out := Host.Outcome State Fault Refusal

end Sys2Proof.Machine
end

