-- ==== Sys2Proof/Machine/Ops.lean ====
section
/-! DEFINITION. The named operations of the engine: buffer memory, the primitives Drive, Sample, MemRead and MemWrite
(R11), the shift rules (R96, R100), completion (R105), fault entry (R160) and the way out of it, construction (R190). -/

namespace Sys2Proof.Machine

/-! ### Buffer memory (R50, R52) -/

/-- The byte somebody has written to `a`, if any. -/
def Memory.lookup : Memory → Nat → Option Word
  | [], _ => none
  | (b, v) :: rest, a => if a = b then some v else Memory.lookup rest a

/-- Writes one byte, keeping the addresses strictly rising. -/
def Memory.write : Memory → Nat → Word → Memory
  | [], a, v => [(a, v)]
  | (b, w) :: rest, a, v =>
    if a < b then (a, v) :: (b, w) :: rest
    else if a = b then (a, v) :: rest
    else (b, w) :: Memory.write rest a v

/-- The canonical form: addresses strictly rising. An unlisted address holds no value the model names, so no entry can
equal it (log 4). -/
def Memory.wf : Memory → Bool
  | [] => true
  | [_] => true
  | (a, _) :: (b, w) :: rest => decide (a < b) && Memory.wf ((b, w) :: rest)

/-- R50: a read returns the last value written to the address; a byte nobody has written is a free value (log 4). -/
def Memory.read (m : Memory) (a : Nat) : Word := (m.lookup a).getD (Config.unwrittenByte a)

/-- R50: the addresses are 0 to 2^ADDR_W − 1. -/
def State.hasAddress (s : State) (a : Nat) : Bool := decide (a < 2 ^ s.params.addrW)

/-! ### Pin operations (R11, R15) -/

/-- The pin layer's answer to `Drive(p, v)` (R15): the script's next answer, else a free value; never err when PIN_ERRORS
is false (R8). -/
def driveAnswer (p : Pin) (v : Level) (s : State) : DriveAnswer :=
  match s.params.pinErrors, s.driveScript with
  | true, a :: _ => a
  | true, [] => freeDriveAnswer s.params s.draws s.history p v
  | false, _ => .ok

/-- `Drive(p, v)` (R11): the recorded level of `p` becomes `v` and the answer is recorded and otherwise ignored
(R15, R26, R27, R28). -/
def drive (p : Pin) (v : Level) (s : State) : State :=
  { s with
    sck := if p = .sck then v else s.sck
    mosi := if p = .mosi then some v else s.mosi
    sda := if p = .sda then v else s.sda
    history := .drive p v (driveAnswer p v s) :: s.history
    driveScript := s.driveScript.tail
    draws := s.draws + 1 }

/-- R8: with PIN_ERRORS false no answer is err; an err the script or the oracle gives is then taken as low (log 3). -/
def SampleAnswer.allowed (pinErrors : Bool) (a : SampleAnswer) : SampleAnswer :=
  match pinErrors, a with
  | false, .err => .low
  | _, a => a

/-- The slave's answer to `Sample(p)` (R14): the script's next answer, else a free value. -/
def sampleAnswer (p : Pin) (s : State) : SampleAnswer :=
  SampleAnswer.allowed s.params.pinErrors
    (match s.sampleScript with
     | a :: _ => a
     | [] => Config.sampleAnswer s.draws s.history p)

/-- R15: `Sample` returns 1 for the answer high, and 0 for low or err. -/
def levelOf : SampleAnswer → Level
  | .high => Level.high
  | .low => Level.low
  | .err => Level.low

/-- R100: `rx <- {rx[6:0], s}`. -/
def shiftIn (rx : Word) (s : Level) : Word := rx.extractLsb' 0 7 ++ BitVec.ofBool s

/-- R96: the bit that cell `k` of a word drives, `tx[7 − k]`. -/
def outBit (tx : Word) (k : Nat) : Level := tx.getLsbD (7 - k)

/-- `Sample(p)` and shift-accumulate (R11, R100). -/
def sampleShift (p : Pin) (s : State) : State :=
  { s with
    rx := shiftIn s.rx (levelOf (sampleAnswer p s))
    history := .sample p (sampleAnswer p s) :: s.history
    sampleScript := s.sampleScript.tail
    draws := s.draws + 1 }

/-! ### Buffer-memory operations of the engine (R11, R102, R103) -/

/-- `tx <- MemRead(a, 1)` (R102). -/
def loadTx (a : Nat) (s : State) : State :=
  { s with tx := s.mem.read a, history := .memRead a (s.mem.read a) :: s.history }

/-- `MemWrite(a, 1, rx)` (R103). -/
def storeRx (a : Nat) (s : State) : State :=
  { s with mem := s.mem.write a s.rx, history := .memWrite a s.rx :: s.history }

/-! ### The sequencing position (R41, R42, R45) -/

/-- Enters a phase. -/
def toPhase (ph : Phase) (s : State) : State := { s with phase := ph }

/-- The start of a word: `rx <- 0; bit <- 0` (R42, R101). -/
def startWord (s : State) : State := { s with rx := 0#8, bit := 0 }

/-- The end of a bit cell: `bit <- bit + 1` (R42). -/
def endCell (s : State) : State := { s with bit := s.bit + 1 }

/-- The end of a word: `word <- word + 1` (R41). -/
def endWord (s : State) : State := { s with word := s.word + 1 }

/-! ### The end of a command -/

/-- R105: the event, STATUS.BUSY and the phase. The command byte is the accepted one, {0b00000, op} (R71, R76). -/
def completeCommand (s : State) : State :=
  { s with history := .complete (0#5 ++ s.op) :: s.history, busy := false, phase := .idle }

/-- R161: the code a cause has in CAUSE.CODE. -/
def causeCode : FaultCause → Word
  | .lenMismatch => 1#8
  | .illegalCmd => 2#8

/-- R160: fault entry. Nothing is saved for a return, because no return exists. -/
def raiseFault (c : FaultCause) (s : State) : State :=
  { s with
    history := .fault c :: s.history
    cause := causeCode c
    faulted := true
    busy := false
    phase := .fault }

/-- R190, R192, R168: a new construction on the same pins, the only way out of FAULT. It keeps nothing of the old
instance; what is not the engine's (buffer memory, the agents' inputs, the platform's widths) stays (log 12). DESIGN CHOICE
(log 17): the whole reset sequence, for HD both of its drives, is one step, since R190 does not say into how many steps it
falls. -/
def reconstruct (v : Variant) (s : State) : State :=
  let blank : State :=
    { State.construct { s.params with variant := v } with
      history := []
      mem := s.mem
      hostMoves := s.hostMoves
      hostReads := s.hostReads
      driveScript := s.driveScript
      sampleScript := s.sampleScript
      draws := s.draws }
  match v with
  | .fd => drive .sck Level.high blank
  | .hd => drive .sda Level.high (drive .sck Level.high blank)

/-! ### What a history says of the lines (R15, R26 to R28) -/

/-- The level the last `Drive` of `p` commanded. -/
def lastDriven : List Event → Pin → Option Level
  | [], _ => none
  | .drive q v _ :: h, p => if q = p then some v else lastDriven h p
  | .sample _ _ :: h, p => lastDriven h p
  | .memRead _ _ :: h, p => lastDriven h p
  | .memWrite _ _ :: h, p => lastDriven h p
  | .complete _ :: h, p => lastDriven h p
  | .fault _ :: h, p => lastDriven h p

/-- The physical level of `p` where the model takes it as known: the last `Drive` of `p` was answered ok (R15). DESIGN
CHOICE (log 5) for SDA: R198 and R199 leave its level open without the pull-up or against a slave that pulls low, and the
level the engine drives is taken there too. -/
def knownLevel : List Event → Pin → Option Level
  | [], _ => none
  | .drive q v r :: h, p => if q = p then (if r = .ok then some v else none) else knownLevel h p
  | .sample _ _ :: h, p => knownLevel h p
  | .memRead _ _ :: h, p => knownLevel h p
  | .memWrite _ _ :: h, p => knownLevel h p
  | .complete _ :: h, p => knownLevel h p
  | .fault _ :: h, p => knownLevel h p

/-- The physical level of a line the engine drives: any value while it is not known (R15, R27; log 5). For SDA after an ok
`Drive` it is the level driven, with no regard to the pull-up or the slave: DESIGN CHOICE (log 5; R198, R199). -/
def physicalLevel (s : State) (p : Pin) : Level :=
  (knownLevel s.history p).getD (Config.unknownLevel s.draws s.history p)

end Sys2Proof.Machine
end

