-- ==== Sys2Proof/Machine/Operands.lean ====
section
/-! DEFINITION. The operands of the ten operations (R75, R77), the buffer ranges they access (R51, R56), what makes
an acceptance refused (R57, R58), and the sets TRANSMIT and RECEIVE (R95). -/

namespace Sys2Proof.Machine

/-- R95: the operations whose bit cells drive DOUT. -/
def transmits : Instr → Bool
  | .fdWrite | .fdTransfer | .fdTransferInPlace | .hdWrite => true
  | .fdRead | .fdFlush | .hdRead | .hdTransfer | .hdTransferInPlace | .hdFlush => false

/-- R95: the operations whose bit cells sample DIN. -/
def receives : Instr → Bool
  | .fdRead | .fdTransfer | .fdTransferInPlace | .hdRead => true
  | .fdWrite | .fdFlush | .hdWrite | .hdTransfer | .hdTransferInPlace | .hdFlush => false

/-- The operations that have bit cells at all (R95). -/
def movesData (k : Instr) : Bool := transmits k || receives k

/-- R12: DOUT is MOSI for FD and SDA for HD. -/
def dout (k : Instr) : Pin :=
  match k.variant with
  | .fd => .mosi
  | .hd => .sda

/-- R12: DIN is MISO for FD and SDA for HD. -/
def din (k : Instr) : Pin :=
  match k.variant with
  | .fd => .miso
  | .hd => .sda

/-- R75, R77: the length N of a command, in words. -/
def lengthOf (k : Instr) (s : State) : Nat :=
  match k with
  | .fdRead | .hdRead | .fdTransfer | .fdTransferInPlace => s.rxLen
  | .fdWrite | .hdWrite => s.txLen
  | .hdTransfer | .hdTransferInPlace | .fdFlush | .hdFlush => 0

/-- R99, R102: the base address the outgoing words come from. -/
def srcOf (k : Instr) (s : State) : Nat :=
  match k with
  | .fdTransferInPlace => s.rxAddr
  | .fdRead | .fdWrite | .fdTransfer | .fdFlush => s.txAddr
  | .hdRead | .hdWrite | .hdTransfer | .hdTransferInPlace | .hdFlush => s.txAddr

/-- R51: the operations that access the RX range. -/
def usesRx : Instr → Bool
  | .fdRead | .hdRead | .fdTransfer | .fdTransferInPlace => true
  | .fdWrite | .hdWrite | .fdFlush | .hdFlush | .hdTransfer | .hdTransferInPlace => false

/-- R51: the operations that access the TX range. -/
def usesTx : Instr → Bool
  | .fdWrite | .hdWrite | .fdTransfer => true
  | .fdRead | .hdRead | .fdTransferInPlace | .fdFlush | .hdFlush | .hdTransfer | .hdTransferInPlace => false

/-- R56: the address set of a buffer, {base + i | 0 ≤ i < len}. -/
def inRange (base len a : Nat) : Bool := decide (base ≤ a) && decide (a < base + len)

/-- R57: a range does not lie within buffer memory when base + len > 2^ADDR_W, computed without wrap. (An empty range
never is: base < 2^ADDR_W.) -/
def outside (s : State) (base len : Nat) : Bool := decide (2 ^ s.params.addrW < base + len)

/-- R58: two nonempty ranges share an address. -/
def overlap (b₁ l₁ b₂ l₂ : Nat) : Bool :=
  decide (l₁ ≠ 0) && decide (l₂ ≠ 0) && decide (b₁ < b₂ + l₂) && decide (b₂ < b₁ + l₁)

/-- R99 `refused(k)`, in the order of R165: a range outside memory, then the overlap of fd.transfer. -/
def refusalOf (k : Instr) (s : State) : Option Refusal :=
  if (usesRx k && outside s s.rxAddr s.rxLen) || (usesTx k && outside s s.txAddr s.txLen) then
    some .rangeOutsideMemory
  else if decide (k = .fdTransfer) && overlap s.rxAddr s.rxLen s.txAddr s.txLen then
    some .rangesOverlap
  else none

/-- R76, R99: what acceptance writes: `op` is latched, BUSY set, and the position cleared. -/
def accepted (k : Instr) (s : State) : State :=
  { s with op := k.opcode, busy := true, word := 0, bit := 0 }

/-- R125, R162: the length precondition, which only fd.transfer has. -/
def lengthsAgree (k : Instr) (s : State) : Bool := decide (k = .fdTransfer → s.rxLen = s.txLen)

end Sys2Proof.Machine
end

