-- ==== Sys2Proof/Machine/Phases.lean ====
section
/-! DEFINITION. One step of a command in each phase (R98, R99). A meaning (FullDuplex.lean, HalfDuplex.lean) says which of
these its command takes in which phase. Each performs at most one event (R97). -/

namespace Sys2Proof.Machine

/-- IDLE, an accepted command (R99 `accept`, R76): unless it is refused (R57, R58), `op` is latched, BUSY set, the position
cleared, and the command enters its first phase. -/
def accept (k : Instr) (first : Phase) (s : State) : Out :=
  match refusalOf k s with
  | some r => .refused r
  | none => .next (toPhase first (accepted k s))

/-- PREP (R98, R99): Drive(SDA, 1). -/
def stepPrep (s : State) : Out := .next (toPhase .load (drive .sda Level.high s))

/-- LOAD at the end of the buffer, or the start of a receive-only word (R99, R101). `n` is the command's length. -/
def stepLoad (n : Nat) (s : State) : Out :=
  if s.word = n then .next (toPhase .done s) else .next (toPhase .clkLow (startWord s))

/-- LOAD of a transmitting command (R99, R101, R102): the outgoing word is read from `base + word`. -/
def stepLoadTx (n base : Nat) (s : State) : Out :=
  if s.word = n then .next (toPhase .done s)
  else if s.hasAddress (base + s.word) then
    .next (toPhase .drive (loadTx (base + s.word) (startWord s)))
  else .fault .addressOutsideMemory

/-- DRIVE (R96, R99): Drive(DOUT, tx[7 − bit]). -/
def stepDrive (p : Pin) (s : State) : Out := .next (toPhase .clkLow (drive p (outBit s.tx s.bit) s))

/-- CLK_LOW (R91, R99): the falling edge. -/
def stepClkLow (s : State) : Out := .next (toPhase .clkHigh (drive .sck Level.low s))

/-- CLK_HIGH of a receiving command (R91, R99): the rising edge, then the sample. -/
def stepClkHighRx (s : State) : Out := .next (toPhase .sample (drive .sck Level.high s))

/-- CLK_HIGH of a transmit-only command (R91, R99): the rising edge ends the bit cell, and the eighth cell the word. -/
def stepClkHighTx (s : State) : Out :=
  if s.bit + 1 < 8 then .next (toPhase .drive (endCell (drive .sck Level.high s)))
  else .next (toPhase .load (endWord (endCell (drive .sck Level.high s))))

/-- SAMPLE (R94, R99, R100): the sample ends the bit cell; `again` is the phase the next cell of the word starts in. -/
def stepSample (p : Pin) (again : Phase) (s : State) : Out :=
  .next (toPhase (if s.bit + 1 < 8 then again else .store) (endCell (sampleShift p s)))

/-- STORE (R99, R103): MemWrite of rx to RX_ADDR + word. -/
def stepStore (s : State) : Out :=
  if s.hasAddress (s.rxAddr + s.word) then
    .next (toPhase .load (endWord (storeRx (s.rxAddr + s.word) s)))
  else .fault .addressOutsideMemory

/-- DONE (R99, R105). -/
def stepDone (s : State) : Out := .next (completeCommand s)

/-- The FAULT phase has no step (R97, R168). -/
def noStepInFault : Out := .fault .faultPhase

/-- A phase R99 never puts the command in. -/
def noStep : Out := .fault .noStepInPhase

end Sys2Proof.Machine
end

