-- ==== Sys2Proof/Machine/FullDuplex.lean ====
section
/-! DEFINITION. The meanings of the five full-duplex operations (spec/41_full_duplex.md): the step each takes in each
phase (R99), with DOUT = MOSI and DIN = MISO. -/

namespace Sys2Proof.Machine

/-- fd.read (R120, R121): receive only, so MOSI is never driven (R106). -/
def execFdRead (s : State) : Out :=
  match s.phase with
  | .idle => accept .fdRead .load s
  | .load => stepLoad s.rxLen s
  | .clkLow => stepClkLow s
  | .clkHigh => stepClkHighRx s
  | .sample => stepSample .miso .clkLow s
  | .store => stepStore s
  | .done => stepDone s
  | .prep | .drive => noStep
  | .fault => noStepInFault

/-- fd.write (R122, R123): transmit only, so MISO is never sampled and memory never written. -/
def execFdWrite (s : State) : Out :=
  match s.phase with
  | .idle => accept .fdWrite .load s
  | .load => stepLoadTx s.txLen s.txAddr s
  | .drive => stepDrive .mosi s
  | .clkLow => stepClkLow s
  | .clkHigh => stepClkHighTx s
  | .done => stepDone s
  | .prep | .sample | .store => noStep
  | .fault => noStepInFault

/-- fd.transfer (R124 to R126): the length precondition is checked before anything else (R125, R162, R165). -/
def execFdTransfer (s : State) : Out :=
  match s.phase with
  | .idle => if s.rxLen ≠ s.txLen then .next (raiseFault .lenMismatch s) else accept .fdTransfer .load s
  | .load => stepLoadTx s.rxLen s.txAddr s
  | .drive => stepDrive .mosi s
  | .clkLow => stepClkLow s
  | .clkHigh => stepClkHighRx s
  | .sample => stepSample .miso .drive s
  | .store => stepStore s
  | .done => stepDone s
  | .prep => noStep
  | .fault => noStepInFault

/-- fd.transfer_in_place (R127, R128): the RX buffer is both source and destination. -/
def execFdTransferInPlace (s : State) : Out :=
  match s.phase with
  | .idle => accept .fdTransferInPlace .load s
  | .load => stepLoadTx s.rxLen s.rxAddr s
  | .drive => stepDrive .mosi s
  | .clkLow => stepClkLow s
  | .clkHigh => stepClkHighRx s
  | .sample => stepSample .miso .drive s
  | .store => stepStore s
  | .done => stepDone s
  | .prep => noStep
  | .fault => noStepInFault

/-- fd.flush (R129, R130): no pin or memory event; it completes at once. -/
def execFdFlush (s : State) : Out :=
  match s.phase with
  | .idle => accept .fdFlush .done s
  | .done => stepDone s
  | .prep | .load | .drive | .clkLow | .clkHigh | .sample | .store => noStep
  | .fault => noStepInFault

end Sys2Proof.Machine
end

