-- ==== Sys2Proof/Machine/HalfDuplex.lean ====
section
/-! DEFINITION. The meanings of the five half-duplex operations (spec/42_half_duplex.md): the step each takes in each
phase (R99), with DOUT = DIN = SDA. -/

namespace Sys2Proof.Machine

/-- hd.read (R140, R141): PREP drives SDA high first, even when no word is read. -/
def execHdRead (s : State) : Out :=
  match s.phase with
  | .idle => accept .hdRead .prep s
  | .prep => stepPrep s
  | .load => stepLoad s.rxLen s
  | .clkLow => stepClkLow s
  | .clkHigh => stepClkHighRx s
  | .sample => stepSample .sda .clkLow s
  | .store => stepStore s
  | .done => stepDone s
  | .drive => noStep
  | .fault => noStepInFault

/-- hd.write (R142, R143): SDA is left at the last bit driven. -/
def execHdWrite (s : State) : Out :=
  match s.phase with
  | .idle => accept .hdWrite .load s
  | .load => stepLoadTx s.txLen s.txAddr s
  | .drive => stepDrive .sda s
  | .clkLow => stepClkLow s
  | .clkHigh => stepClkHighTx s
  | .done => stepDone s
  | .prep | .sample | .store => noStep
  | .fault => noStepInFault

/-- hd.transfer (R144, R145): a no-op that reports success, whatever the lengths. -/
def execHdTransfer (s : State) : Out :=
  match s.phase with
  | .idle => accept .hdTransfer .done s
  | .done => stepDone s
  | .prep | .load | .drive | .clkLow | .clkHigh | .sample | .store => noStep
  | .fault => noStepInFault

/-- hd.transfer_in_place (R146, R147): a no-op that reports success. -/
def execHdTransferInPlace (s : State) : Out :=
  match s.phase with
  | .idle => accept .hdTransferInPlace .done s
  | .done => stepDone s
  | .prep | .load | .drive | .clkLow | .clkHigh | .sample | .store => noStep
  | .fault => noStepInFault

/-- hd.flush (R148, R149): as fd.flush. -/
def execHdFlush (s : State) : Out :=
  match s.phase with
  | .idle => accept .hdFlush .done s
  | .done => stepDone s
  | .prep | .load | .drive | .clkLow | .clkHigh | .sample | .store => noStep
  | .fault => noStepInFault

end Sys2Proof.Machine
end

