-- ==== Sys2Proof/Machine/Dispatch.lean ====
section
/-! DEFINITION. Which meaning each operation has: one step of the operation, in the phase the machine is in (R97, R99). -/

namespace Sys2Proof.Machine

def exec (i : Instr) (s : State) : Host.Outcome State Fault Refusal :=
  match i with
  | .fdRead => Sys2Proof.Machine.execFdRead s
  | .fdWrite => Sys2Proof.Machine.execFdWrite s
  | .fdTransfer => Sys2Proof.Machine.execFdTransfer s
  | .fdTransferInPlace => Sys2Proof.Machine.execFdTransferInPlace s
  | .fdFlush => Sys2Proof.Machine.execFdFlush s
  | .hdRead => Sys2Proof.Machine.execHdRead s
  | .hdWrite => Sys2Proof.Machine.execHdWrite s
  | .hdTransfer => Sys2Proof.Machine.execHdTransfer s
  | .hdTransferInPlace => Sys2Proof.Machine.execHdTransferInPlace s
  | .hdFlush => Sys2Proof.Machine.execHdFlush s

end Sys2Proof.Machine
end

