-- ==== Sys2Proof/Machine/Flags.lean ====
section
/-! DEFINITION. The flags and the control registers as the host reads and writes them (R29 to R38). No operation
computes a condition code (R46): the only flags are those of STATUS. -/

namespace Sys2Proof.Machine

/-- R29: the control registers. -/
inductive CtrlReg where
  | config
  | status
  | cause
  | cmd
  | rxAddr
  | rxLen
  | txAddr
  | txLen
  deriving DecidableEq, Repr

/-- R29: the register a 3-bit number names; no number is reserved. -/
def ctrlReg (n : BitVec 3) : CtrlReg :=
  match n.toNat with
  | 0 => .config
  | 1 => .status
  | 2 => .cause
  | 3 => .cmd
  | 4 => .rxAddr
  | 5 => .rxLen
  | 6 => .txAddr
  | _ => .txLen

/-- R29: the width of a register. -/
def regWidth (p : Params) : CtrlReg → Nat
  | .config | .status | .cause | .cmd => 8
  | .rxAddr | .txAddr => p.addrW
  | .rxLen | .txLen => p.lenW

/-- R30: CONFIG is VARIANT in bit 0, below seven zero bits. -/
def configByte (s : State) : Word := 0#7 ++ BitVec.ofBool (bitOfVariant s.params.variant)

/-- R31: STATUS is {0b00000, ERR, FAULT, BUSY}, with ERR hardwired 0 (R166). -/
def statusByte (s : State) : Word :=
  0#5 ++ BitVec.ofBool false ++ BitVec.ofBool s.faulted ++ BitVec.ofBool s.busy

/-- RegRead (R29, R38): CMD reads as 0. -/
def regRead (r : CtrlReg) (s : State) : Nat :=
  match r with
  | .config => (configByte s).toNat
  | .status => (statusByte s).toNat
  | .cause => s.cause.toNat
  | .cmd => 0
  | .rxAddr => s.rxAddr
  | .rxLen => s.rxLen
  | .txAddr => s.txAddr
  | .txLen => s.txLen

/-- RegWrite of the registers other than CMD, in IDLE (R34 to R38): CONFIG, STATUS and CAUSE ignore it, an operand
register takes the value at once. -/
def regWrite (r : CtrlReg) (v : Nat) (s : State) : State :=
  match r with
  | .config | .status | .cause | .cmd => s
  | .rxAddr => { s with rxAddr := v }
  | .rxLen => { s with rxLen := v }
  | .txAddr => { s with txAddr := v }
  | .txLen => { s with txLen := v }

end Sys2Proof.Machine
end

