-- ==== Sys2Proof/Machine/Issue.lean ====
section
/-! DEFINITION. Where commands come from: the moves of the host (R29, R38, R82), the issue of a command and its decoding
(R73, R74, R163), and the command in progress (R40). There is no fetch from memory (R65). -/

namespace Sys2Proof.Machine

/-- A write of CMD in IDLE (R70, R82, R99): the key {VARIANT, c} is decoded, and the operation takes its accept step; an
illegal key is the fault ILLEGAL_CMD (R163). -/
def issue (c : Word) (s : State) : Out :=
  match decodeKey (keyOf s.params.variant c) with
  | .op i => exec i s
  | .reject _ => .next (raiseFault .illegalCmd s)

/-- `RegWrite(n, v)` in IDLE (R38, R70). CONFIG, STATUS and CAUSE ignore every value (R38). A value that does not fit CMD
or the operand register it is written to has no meaning in the spec (log 7). -/
def regWriteMove (r : CtrlReg) (v : Nat) (s : State) : Out :=
  match r with
  | .config | .status | .cause => .next (regWrite r v s)
  | .cmd => if v < 2 ^ regWidth s.params r then issue (BitVec.ofNat 8 v) s else .refused .valueTooWide
  | .rxAddr | .rxLen | .txAddr | .txLen =>
    if v < 2 ^ regWidth s.params r then .next (regWrite r v s) else .refused .valueTooWide

/-- `RegRead(n)`, in IDLE and in FAULT (R29, R38): the value goes to the host. -/
def regReadMove (r : CtrlReg) (s : State) : Out := .next { s with hostReads := regRead r s :: s.hostReads }

/-- The host writes a byte of buffer memory between commands (R50, R62). -/
def memWriteMove (a : Nat) (v : Word) (s : State) : Out :=
  if s.hasAddress a then .next { s with mem := s.mem.write a v } else .fault .addressOutsideMemory

/-- The host reads a byte of buffer memory between commands (R50, R62). -/
def memReadMove (a : Nat) (s : State) : Out :=
  if s.hasAddress a then .next { s with hostReads := (s.mem.read a).toNat :: s.hostReads } else .fault .addressOutsideMemory

/-- A move of the host in IDLE (R38, R62, R82, R190). -/
def idleMove (m : HostMove) (s : State) : Out :=
  match m with
  | .regWrite n v => regWriteMove (ctrlReg n) v s
  | .regRead n => regReadMove (ctrlReg n) s
  | .memWrite a v => memWriteMove a v s
  | .memRead a => memReadMove a s
  | .construct v => .next (reconstruct v s)

/-- A move in FAULT. The host stays blocked (R160, R168), so it has no access to buffer memory; register writes are ignored
and register reads still return the values (R38, log 11); a new construction is the way out (R192). -/
def faultMove (m : HostMove) (s : State) : Out :=
  match m with
  | .regWrite _ _ => .next s
  | .regRead n => regReadMove (ctrlReg n) s
  | .memWrite _ _ | .memRead _ => .fault .faultPhase
  | .construct v => .next (reconstruct v s)

/-- One move of the host, in IDLE or in FAULT. -/
def hostMove (m : HostMove) (s : State) : Out := if s.phase = .fault then faultMove m s else idleMove m s

/-- The next move of the host, when it has one (R97: without a command, no step). -/
def hostStep (s : State) : Out :=
  match s.hostMoves with
  | m :: rest => hostMove m { s with hostMoves := rest }
  | [] => if s.phase = .fault then .fault .faultPhase else .fault .noHostMove

/-- The operation in progress: the latched code, decoded for the variant (R40, R74). -/
def latched (s : State) : Decoded := decodeKey (keyOf s.params.variant (0#5 ++ s.op))

/-- A step of the command in progress (R97, R99). The host is blocked meanwhile (R38). -/
def busyStep (s : State) : Out :=
  match latched s with
  | .op i => exec i s
  | .reject _ => .fault .opLatchIllegal

/-- An engine of variant `v` in IDLE, free of faults, with the operand registers, memory and inputs of `s`: `s` itself
where it is that already. For `withFetchWord` (log 8). -/
def readyFor (v : Variant) (s : State) : State :=
  if s.params.variant = v ∧ s.phase = .idle then s
  else { reconstruct v s with
    rxAddr := s.rxAddr, rxLen := s.rxLen, txAddr := s.txAddr, txLen := s.txLen }

end Sys2Proof.Machine
end

