-- ==== Sys2Proof/Machine/Step.lean ====
section
/-! DEFINITION. One step of the machine (R97): the host's next move while no command is in progress, else one step of
the command in progress; and the placing of a command for the host's checks. -/

namespace Sys2Proof.Machine

def step (s : State) : Host.Outcome State Fault Refusal :=
  match s.phase with
  | .idle | .fault => hostStep s
  | .prep | .load | .drive | .clkLow | .clkHigh | .sample | .store | .done => busyStep s

/-- `s` with the command whose key is the low nine bits of `w` as the host's very next move: KEY[7:0] is the byte written to CMD, KEY[8] the
variant of the engine it is written to (R73; log 8). -/
def State.withFetchWord (s : State) (nbits w : Nat) : State :=
  let key := w % 2 ^ nbits
  let t := readyFor (variantOfBit (key.testBit 8)) s
  { t with hostMoves := .regWrite 3#3 (key % 256) :: t.hostMoves }

end Sys2Proof.Machine
end

