-- ==== Sys2Proof/Machine/Assembler.lean ====
section
/-! DEFINITION. The assembly syntax of a command sequence and its register writes (R80). No pseudo-instruction exists (R81). -/

namespace Sys2Proof.Machine

/-- One line of assembly (R80); the variant is that of the engine the program runs on. -/
inductive AsmLine where
  | read (rxAddr rxLen : Nat)
  | write (txAddr txLen : Nat)
  | transfer (rxAddr rxLen txAddr txLen : Nat)
  | transferInPlace (rxAddr rxLen : Nat)
  | flush
  deriving DecidableEq, Repr

/-- The operation a line stands for on an engine of variant `v` (R72, R73, R80). -/
def AsmLine.instr (v : Variant) : AsmLine → Instr
  | .read _ _ => match v with | .fd => .fdRead | .hd => .hdRead
  | .write _ _ => match v with | .fd => .fdWrite | .hd => .hdWrite
  | .transfer _ _ _ _ => match v with | .fd => .fdTransfer | .hd => .hdTransfer
  | .transferInPlace _ _ => match v with | .fd => .fdTransferInPlace | .hd => .hdTransferInPlace
  | .flush => match v with | .fd => .fdFlush | .hd => .hdFlush

/-- R80: an operand out of range for its register is an assembly error. -/
def AsmLine.wf (p : Params) : AsmLine → Bool
  | .read a n | .write a n | .transferInPlace a n => decide (a < 2 ^ p.addrW) && decide (n < 2 ^ p.lenW)
  | .transfer ra rn ta tn =>
    decide (ra < 2 ^ p.addrW) && decide (rn < 2 ^ p.lenW) && decide (ta < 2 ^ p.addrW) && decide (tn < 2 ^ p.lenW)
  | .flush => true

/-- R80: the register writes a line assembles to, the operand registers it names first and CMD last. -/
def assemble : AsmLine → List HostMove
  | .read a n => [.regWrite 4#3 a, .regWrite 5#3 n, .regWrite 3#3 0x01]
  | .write a n => [.regWrite 6#3 a, .regWrite 7#3 n, .regWrite 3#3 0x02]
  | .transfer ra rn ta tn =>
    [.regWrite 4#3 ra, .regWrite 5#3 rn, .regWrite 6#3 ta, .regWrite 7#3 tn, .regWrite 3#3 0x03]
  | .transferInPlace a n => [.regWrite 4#3 a, .regWrite 5#3 n, .regWrite 3#3 0x04]
  | .flush => [.regWrite 3#3 0x05]

/-- The operand registers a line names, set to its operands (R80); the others keep their values. -/
def AsmLine.operands (l : AsmLine) (s : State) : State :=
  match l with
  | .read a n | .transferInPlace a n => { s with rxAddr := a, rxLen := n }
  | .write a n => { s with txAddr := a, txLen := n }
  | .transfer ra rn ta tn => { s with rxAddr := ra, rxLen := rn, txAddr := ta, txLen := tn }
  | .flush => s

end Sys2Proof.Machine
end

