-- ==== Sys2Proof/Machine/BitLoop.lean ====
section
/-! DEFINITION. The operation-level view of a command (R104): what a whole command does, from acceptance to completion,
written as the spec's loops and not as phases. It is the second of the two normative views (R99 is the other); `step`
does not use it, and Obligations.lean states that the two agree. -/

namespace Sys2Proof.Machine

/-- One bit cell (R92, R104). -/
def bitCell (k : Instr) (s : State) : State :=
  let s₁ := if transmits k then drive (dout k) (outBit s.tx s.bit) s else s
  let s₂ := drive .sck Level.high (drive .sck Level.low s₁)
  let s₃ := if receives k then sampleShift (din k) s₂ else s₂
  endCell s₃

/-- `n` bit cells in a row. -/
def bitCells (k : Instr) : Nat → State → State
  | 0, s => s
  | n + 1, s => bitCells k n (bitCell k s)

/-- One word (R101 to R104): the start, eight bit cells, and the store of a receiving operation. -/
def wordLoop (k : Instr) (s : State) : State :=
  let s₀ := startWord s
  let s₁ := if transmits k then loadTx (srcOf k s + s.word) s₀ else s₀
  let s₂ := bitCells k 8 s₁
  let s₃ := if receives k then storeRx (s.rxAddr + s.word) s₂ else s₂
  endWord s₃

/-- `n` words in a row. -/
def wordsLoop (k : Instr) : Nat → State → State
  | 0, s => s
  | n + 1, s => wordsLoop k n (wordLoop k s)

/-- R104 `bitloop(k)`, from acceptance to completion. -/
def bitloop (k : Instr) (s : State) : State :=
  let s₀ := accepted k s
  let s₁ := if k = .hdRead then drive .sda Level.high s₀ else s₀
  completeCommand (wordsLoop k (lengthOf k s) s₁)

/-- R107: the number of steps from acceptance to completion, both included. -/
def stepCount (k : Instr) (n : Nat) : Nat :=
  match k with
  | .fdRead => 26 * n + 3
  | .hdRead => 26 * n + 4
  | .fdWrite | .hdWrite => 25 * n + 3
  | .fdTransfer | .fdTransferInPlace => 34 * n + 3
  | .fdFlush | .hdFlush | .hdTransfer | .hdTransferInPlace => 2

end Sys2Proof.Machine
end

