-- ==== Sys2Proof/Safety.lean ====
section
/-! DEFINITION. The terms claims are stated in: running steps, when a command is accepted, and the invariant that
construction establishes and every step keeps. -/

namespace Sys2Proof.Machine

/-- `n` steps, stopping at the first fault or refusal. -/
def run : Nat → State → Out
  | 0, s => .next s
  | n + 1, s =>
    match step s with
    | .next t => run n t
    | .fault r => .fault r
    | .refused r => .refused r

/-- A command that IDLE accepts: no fault condition and no refusal holds of it (R165). -/
def Acceptable (k : Instr) (s : State) : Prop :=
  s.phase = .idle ∧ lengthsAgree k s = true ∧ refusalOf k s = none

/-- The phase an accepted command enters (R99). -/
def firstPhase : Instr → Phase
  | .fdFlush | .hdFlush | .hdTransfer | .hdTransferInPlace => .done
  | .hdRead => .prep
  | .fdRead | .fdWrite | .fdTransfer | .fdTransferInPlace | .hdWrite => .load

/-- Where inside command `k` a busy engine stands (R41, R42, R45, R99). -/
def AtPosition (k : Instr) (s : State) : Prop :=
  match s.phase with
  | .idle | .fault => False
  | .prep => k = .hdRead ∧ s.word = 0
  | .load => movesData k = true ∧ s.word ≤ lengthOf k s
  | .drive => transmits k = true ∧ s.word < lengthOf k s ∧ s.bit < 8
  | .clkLow | .clkHigh => movesData k = true ∧ s.word < lengthOf k s ∧ s.bit < 8
  | .sample => receives k = true ∧ s.word < lengthOf k s ∧ s.bit < 8
  | .store => receives k = true ∧ s.word < lengthOf k s ∧ s.bit = 8
  | .done => s.word = lengthOf k s

/-- What holds of the command in progress: it is the latched one, it passed the acceptance checks (R165), and it is at
one of its own positions; during hd.read, from its PREP drive on, SDA is driven high (R49). -/
structure CommandInv (k : Instr) (s : State) : Prop where
  isLatched   : latched s = .op k
  passed      : refusalOf k s = none
  lengths     : lengthsAgree k s = true
  position    : AtPosition k s
  sdaReleased : k = .hdRead → s.phase ≠ .prep → s.sda = Level.high

/-- The invariant of the machine. -/
structure Inv (s : State) : Prop where
  /-- R8 -/
  paramsWf     : s.params.wf = true
  /-- R34 to R37: each operand register holds a value of its width -/
  rxAddrWidth  : s.rxAddr < 2 ^ s.params.addrW
  rxLenWidth   : s.rxLen < 2 ^ s.params.lenW
  txAddrWidth  : s.txAddr < 2 ^ s.params.addrW
  txLenWidth   : s.txLen < 2 ^ s.params.lenW
  /-- the canonical form of buffer memory -/
  memCanonical : s.mem.wf = true
  /-- R50: no byte outside 0 to 2^ADDR_W − 1 -/
  memInside    : ∀ c ∈ s.mem, c.1 < 2 ^ s.params.addrW
  /-- R31: BUSY is 1 exactly from acceptance to the end of a command -/
  busyExact    : s.busy = true ↔ s.phase ≠ .idle ∧ s.phase ≠ .fault
  /-- R31: FAULT is 1 exactly in the FAULT phase -/
  faultExact   : s.faulted = true ↔ s.phase = .fault
  /-- R32, R161: CAUSE is 0 before a fault and 1 or 2 after one -/
  causeExact   : if s.phase = .fault then s.cause = 1#8 ∨ s.cause = 2#8 else s.cause = 0#8
  /-- R109: the clock is low exactly between the two edges of a pulse -/
  clockExact   : s.sck = Level.low ↔ s.phase = .clkHigh
  /-- R26 to R28: the recorded levels are the levels last driven -/
  sckRecorded  : lastDriven s.history .sck = some s.sck
  mosiRecorded : lastDriven s.history .mosi = s.mosi
  sdaRecorded  : s.params.variant = .hd → lastDriven s.history .sda = some s.sda
  /-- R20, R21: an engine drives only the lines it has -/
  mosiOnlyFd   : s.params.variant = .hd → s.mosi = none
  sdaOnlyHd    : s.params.variant = .fd → lastDriven s.history .sda = none
  /-- R42 -/
  bitBound     : s.bit ≤ 8
  /-- R40: the latch holds 0 or the code of an operation -/
  opBound      : s.op.toNat ≤ 5
  /-- R99: what the command in progress is and where it stands -/
  command      : s.busy = true → ∃ k, CommandInv k s

/-- The part of a state that a pin failure may change (R15, R205): the answers on record and the answers to come. -/
def withAnswers (h : List Event) (d : List DriveAnswer) (n : Nat) (s : State) : State :=
  { s with history := h, driveScript := d, draws := n }

/-- An event with the pin layer's answer to a `Drive` left out. -/
def eraseAnswer : Event → Event
  | .drive p v _ => .drive p v .ok
  | .sample p a => .sample p a
  | .memRead a v => .memRead a v
  | .memWrite a v => .memWrite a v
  | .complete c => .complete c
  | .fault c => .fault c

/-- Counting events (R108). -/
def isDrive (p : Pin) : Event → Bool
  | .drive q _ _ => decide (q = p)
  | .sample _ _ | .memRead _ _ | .memWrite _ _ | .complete _ | .fault _ => false

def isSample : Event → Bool
  | .sample _ _ => true
  | .drive _ _ _ | .memRead _ _ | .memWrite _ _ | .complete _ | .fault _ => false

def isMemRead : Event → Bool
  | .memRead _ _ => true
  | .drive _ _ _ | .sample _ _ | .memWrite _ _ | .complete _ | .fault _ => false

def isMemWrite : Event → Bool
  | .memWrite _ _ => true
  | .drive _ _ _ | .sample _ _ | .memRead _ _ | .complete _ | .fault _ => false

def isComplete : Event → Bool
  | .complete _ => true
  | .drive _ _ _ | .sample _ _ | .memRead _ _ | .memWrite _ _ | .fault _ => false

/-- The levels driven onto `p` in a list of events given newest first, oldest first. -/
def drivenLevels (p : Pin) (h : List Event) : List Level :=
  h.reverse.filterMap (fun e => match e with
    | .drive q v _ => if q = p then some v else none
    | .sample _ _ | .memRead _ _ | .memWrite _ _ | .complete _ | .fault _ => none)

/-- The answers given to the samples of a list of events given newest first, oldest first. -/
def samplesOf (h : List Event) : List SampleAnswer :=
  h.reverse.filterMap (fun e => match e with
    | .sample _ a => some a
    | .drive _ _ _ | .memRead _ _ | .memWrite _ _ | .complete _ | .fault _ => none)

/-- The bits of a word in the order they stand on the wire, bit 7 first (R55). -/
def wireBits (w : Word) : List Level := (List.range 8).map (fun k => w.getLsbD (7 - k))

/-- The word that eight samples build, the first in bit 7 (R101). -/
def wordOfSamples (l : List Level) : Word := l.foldl shiftIn 0#8

end Sys2Proof.Machine
end

