-- ==== Sys2Proof/Certificates/Slice0/Obligations.lean ====
section
/-! DEFINITION. The statements about the model. Where a docstring says "the spec's decision D<n>", the rule is one the
spec states by its own choice (92_eei_decisions.md); where it names a log entry, that clause is the model's choice. -/

open Sys2Proof Sys2Proof.Machine

/-! ### Reset and the invariant -/

/-- R190 with the reset values of R47 (the spec's decisions D14, D15): both variants. -/
def Obligations.ConstructionGivesResetState : Prop :=
  ∀ p : Params, ∃ r₁ r₂ : DriveAnswer,
    let s := State.construct p
    (p.pinErrors = false → r₁ = .ok ∧ r₂ = .ok) ∧
    s.params = p ∧ s.phase = .idle ∧ s.sck = Level.high ∧ s.mosi = none ∧
    s.busy = false ∧ s.faulted = false ∧ s.cause = 0#8 ∧
    s.rxAddr = 0 ∧ s.rxLen = 0 ∧ s.txAddr = 0 ∧ s.txLen = 0 ∧
    s.op = 0#3 ∧ s.word = 0 ∧ s.bit = 0 ∧ s.tx = 0#8 ∧ s.rx = 0#8 ∧
    (p.variant = .fd → regRead .config s = 0 ∧ s.history = [.drive .sck Level.high r₁]) ∧
    (p.variant = .hd → regRead .config s = 1 ∧ s.sda = Level.high ∧
      s.history = [.drive .sda Level.high r₂, .drive .sck Level.high r₁])

/-- Every engine with parameters R8 allows is constructed in a state that meets the invariant. -/
def Obligations.ConstructedEngineMeetsInvariant : Prop :=
  ∀ p : Params, p.wf = true → Inv (State.construct p)

/-- From every state that meets the invariant, a step gives a state that meets it. -/
def Obligations.StepKeepsInvariant : Prop :=
  ∀ s t : State, Inv s → step s = .next t → Inv t

/-- The canonical form of buffer memory needs no other part of the invariant. -/
def Obligations.StepKeepsMemoryCanonical : Prop :=
  ∀ s t : State, s.mem.wf = true → step s = .next t → t.mem.wf = true

/-! ### Encoding -/

/-- R73: the ten keys, the key as {CONFIG.VARIANT, CMD}, and every other key is illegal (the spec's decision D3). -/
def Obligations.DecodeTableIsExact : Prop :=
  decodeKey 0x001#9 = .op .fdRead ∧ decodeKey 0x002#9 = .op .fdWrite ∧ decodeKey 0x003#9 = .op .fdTransfer ∧
  decodeKey 0x004#9 = .op .fdTransferInPlace ∧ decodeKey 0x005#9 = .op .fdFlush ∧
  decodeKey 0x101#9 = .op .hdRead ∧ decodeKey 0x102#9 = .op .hdWrite ∧ decodeKey 0x103#9 = .op .hdTransfer ∧
  decodeKey 0x104#9 = .op .hdTransferInPlace ∧ decodeKey 0x105#9 = .op .hdFlush ∧
  (∀ c : Word, (keyOf .fd c).toNat = c.toNat ∧ (keyOf .hd c).toNat = 256 + c.toNat) ∧
  ∀ key : BitVec 9,
    key ∉ [0x001#9, 0x002#9, 0x003#9, 0x004#9, 0x005#9, 0x101#9, 0x102#9, 0x103#9, 0x104#9, 0x105#9] →
    (decodeKey key).toOption = none

/-- Decode and encode agree, and each operation has one key only. -/
def Obligations.DecodeUndoesEncode : Prop :=
  (∀ i : Instr, decodeKey (encode i) = .op i) ∧ ∀ (key : BitVec 9) (i : Instr), decodeKey key = .op i → encode i = key

/-! ### A step runs the decoded command -/

/-- R82, R99: in IDLE, a write of CMD whose key decodes runs that operation's accept step; the host's move is consumed. -/
def Obligations.StepRunsIssuedCommand : Prop :=
  ∀ (s : State) (c : Word) (rest : List HostMove) (i : Instr),
    s.phase = .idle → s.hostMoves = .regWrite 3#3 c.toNat :: rest →
    decodeKey (keyOf s.params.variant c) = .op i →
    step s = exec i { s with hostMoves := rest }

/-- R40, R99: outside IDLE and FAULT, a step is a step of the latched operation. -/
def Obligations.StepRunsCommandInProgress : Prop :=
  ∀ (s : State) (i : Instr),
    s.phase ≠ .idle → s.phase ≠ .fault → decodeKey (keyOf s.params.variant (0#5 ++ s.op)) = .op i →
    step s = exec i s

/-- R82 (and log 8): a key placed by `withFetchWord` on an engine of its variant in IDLE is the very next command. -/
def Obligations.PlacedCommandRunsNext : Prop :=
  ∀ (s : State) (i : Instr), s.phase = .idle → i.wf s.params.variant = true →
    step (s.withFetchWord 16 (encode i).toNat) = exec i s

/-- R97: no step is taken in the FAULT phase, or in IDLE without a command (or another move of the host); and a host that has
met a fault stays blocked (R160): it has no access to buffer memory. Log 10 and log 11 say how. -/
def Obligations.NoStepWithoutHostMove : Prop :=
  (∀ s : State, s.phase = .idle → s.hostMoves = [] → step s = .fault .noHostMove) ∧
  (∀ s : State, s.phase = .fault → s.hostMoves = [] → step s = .fault .faultPhase) ∧
  (∀ (k : Instr) (s : State), s.phase = .fault → exec k s = .fault .faultPhase) ∧
  (∀ (s : State) (a : Nat) (rest : List HostMove), s.phase = .fault →
    (s.hostMoves = .memRead a :: rest ∨ ∃ v, s.hostMoves = .memWrite a v :: rest) → step s = .fault .faultPhase)

/-! ### Acceptance, faults and refusals -/

/-- R163, R78 (the spec's decision D4): an illegal command only enters FAULT. -/
def Obligations.IllegalCommandFaults : Prop :=
  ∀ (s : State) (c : Word) (rest : List HostMove),
    s.phase = .idle → s.hostMoves = .regWrite 3#3 c.toNat :: rest →
    (c.extractLsb' 3 5 ≠ 0#5 ∨ c.extractLsb' 0 3 = 0#3 ∨ c.extractLsb' 0 3 = 6#3 ∨ c.extractLsb' 0 3 = 7#3) →
    step s = .next { s with
      hostMoves := rest, history := .fault .illegalCmd :: s.history, cause := 2#8, faulted := true, busy := false,
      phase := .fault }

/-- R162: fd.transfer with unequal lengths only enters FAULT, whatever its ranges; no other operation raises a fault. -/
def Obligations.LengthMismatchFaults : Prop :=
  (∀ s : State, s.phase = .idle → s.rxLen ≠ s.txLen →
    exec .fdTransfer s = .next { s with
      history := .fault .lenMismatch :: s.history, cause := 1#8, faulted := true, busy := false, phase := .fault }) ∧
  (∀ (k : Instr) (s t : State), k ≠ .fdTransfer → exec k s = .next t →
    t.phase ≠ .fault ∧ .fault .lenMismatch :: s.history ≠ t.history)

/-- R57 (the spec's decision D7): a command that accesses a range outside buffer memory, and that passes the length
check, has no step. -/
def Obligations.RangeOutsideMemoryIsRefused : Prop :=
  (∀ (k : Instr) (s : State), k ∈ [Instr.fdRead, .hdRead, .fdTransferInPlace] → s.phase = .idle →
    2 ^ s.params.addrW < s.rxAddr + s.rxLen → exec k s = .refused .rangeOutsideMemory) ∧
  (∀ (k : Instr) (s : State), k ∈ [Instr.fdWrite, .hdWrite] → s.phase = .idle →
    2 ^ s.params.addrW < s.txAddr + s.txLen → exec k s = .refused .rangeOutsideMemory) ∧
  (∀ s : State, s.phase = .idle → s.rxLen = s.txLen →
    (2 ^ s.params.addrW < s.rxAddr + s.rxLen ∨ 2 ^ s.params.addrW < s.txAddr + s.txLen) →
    exec .fdTransfer s = .refused .rangeOutsideMemory)

/-- R58 (the spec's decision D8): an fd.transfer whose ranges share an address has no step. -/
def Obligations.SharedAddressIsRefused : Prop :=
  ∀ s : State, s.phase = .idle → s.rxLen = s.txLen →
    s.rxAddr + s.rxLen ≤ 2 ^ s.params.addrW → s.txAddr + s.txLen ≤ 2 ^ s.params.addrW →
    (∃ a, (s.rxAddr ≤ a ∧ a < s.rxAddr + s.rxLen) ∧ (s.txAddr ≤ a ∧ a < s.txAddr + s.txLen)) →
    exec .fdTransfer s = .refused .rangesOverlap

/-- R165 (the spec's decision D17): of the acceptance checks only the first that applies has an effect. -/
def Obligations.AcceptanceChecksInOrder : Prop :=
  ∀ (s : State) (c : Word) (rest : List HostMove),
    s.phase = .idle → s.hostMoves = .regWrite 3#3 c.toNat :: rest →
    let u : State := { s with hostMoves := rest }
    step s =
      match (decodeKey (keyOf s.params.variant c)).toOption with
      | none => .next (raiseFault .illegalCmd u)
      | some k =>
        if k = .fdTransfer ∧ s.rxLen ≠ s.txLen then .next (raiseFault .lenMismatch u)
        else if (usesRx k = true ∧ 2 ^ s.params.addrW < s.rxAddr + s.rxLen) ∨
            (usesTx k = true ∧ 2 ^ s.params.addrW < s.txAddr + s.txLen) then .refused .rangeOutsideMemory
        else if k = .fdTransfer ∧ overlap s.rxAddr s.rxLen s.txAddr s.txLen = true then .refused .rangesOverlap
        else .next { u with op := k.opcode, busy := true, word := 0, bit := 0, phase := firstPhase k }

/-- R99 `accept` (the spec's decision D32), for each of the ten operations: the ranges it accesses lie in memory, and for
fd.transfer the lengths are equal and no address is shared. -/
def Obligations.AcceptedCommandStarts : Prop :=
  ∀ (k : Instr) (s : State), s.phase = .idle →
    (k ∈ [Instr.fdRead, .hdRead, .fdTransfer, .fdTransferInPlace] → s.rxAddr + s.rxLen ≤ 2 ^ s.params.addrW) →
    (k ∈ [Instr.fdWrite, .hdWrite, .fdTransfer] → s.txAddr + s.txLen ≤ 2 ^ s.params.addrW) →
    (k = .fdTransfer → s.rxLen = s.txLen ∧
      ∀ a, ¬ ((s.rxAddr ≤ a ∧ a < s.rxAddr + s.rxLen) ∧ (s.txAddr ≤ a ∧ a < s.txAddr + s.txLen))) →
    exec k s = .next { s with op := k.opcode, busy := true, word := 0, bit := 0, phase := firstPhase k }

/-! ### The phases -/

/-- R99 PREP: hd.read drives SDA high. -/
def Obligations.PrepDrivesSdaHigh : Prop :=
  ∀ s : State, s.phase = .prep → ∃ r : DriveAnswer,
    (s.params.pinErrors = false → r = .ok) ∧
    exec .hdRead s = .next { s with
      sda := Level.high, history := .drive .sda Level.high r :: s.history, driveScript := s.driveScript.tail,
      draws := s.draws + 1, phase := .load }

/-- R99 LOAD: at the end of the buffer the command goes to DONE and changes nothing else. -/
def Obligations.LoadEndsAtLength : Prop :=
  ∀ (k : Instr) (s : State), s.phase = .load →
    (k ∈ [Instr.fdRead, .hdRead, .fdTransfer, .fdTransferInPlace] → s.word = s.rxLen) →
    (k ∈ [Instr.fdWrite, .hdWrite] → s.word = s.txLen) →
    k ∉ [Instr.fdFlush, .hdFlush, .hdTransfer, .hdTransferInPlace] →
    exec k s = .next { s with phase := .done }

/-- R102, and LOAD of R99: a transmitting operation captures the outgoing word once, at the start of the word, and no
other step of any operation changes `tx`. -/
def Obligations.LoadCapturesOutgoingWord : Prop :=
  (∀ (k : Instr) (s : State) (a : Nat),
    ((k = .fdTransferInPlace ∧ s.word ≠ s.rxLen ∧ a = s.rxAddr + s.word) ∨
     (k = .fdTransfer ∧ s.word ≠ s.rxLen ∧ a = s.txAddr + s.word) ∨
     (k ∈ [Instr.fdWrite, .hdWrite] ∧ s.word ≠ s.txLen ∧ a = s.txAddr + s.word)) →
    s.phase = .load → a < 2 ^ s.params.addrW →
    exec k s = .next { s with
      rx := 0#8, bit := 0, tx := s.mem.read a, history := .memRead a (s.mem.read a) :: s.history, phase := .drive }) ∧
  (∀ (k : Instr) (s t : State), s.phase ≠ .load → exec k s = .next t → t.tx = s.tx)

/-- R99 LOAD of a receive-only operation: the accumulator and the bit counter are cleared, and there is no event. -/
def Obligations.LoadStartsReceiveOnlyWord : Prop :=
  ∀ (k : Instr) (s : State), k ∈ [Instr.fdRead, .hdRead] → s.phase = .load → s.word ≠ s.rxLen →
    exec k s = .next { s with rx := 0#8, bit := 0, phase := .clkLow }

/-- R96: bit cell k drives `tx[7 − k]`, onto MOSI for FD and onto SDA for HD (R12). -/
def Obligations.DriveSendsNextBit : Prop :=
  (∀ (k : Instr) (s : State), k ∈ [Instr.fdWrite, .fdTransfer, .fdTransferInPlace] → s.phase = .drive → s.bit < 8 →
    ∃ r : DriveAnswer, (s.params.pinErrors = false → r = .ok) ∧
      exec k s = .next { s with
        mosi := some (s.tx.getLsbD (7 - s.bit)), history := .drive .mosi (s.tx.getLsbD (7 - s.bit)) r :: s.history,
        driveScript := s.driveScript.tail, draws := s.draws + 1, phase := .clkLow }) ∧
  (∀ s : State, s.phase = .drive → s.bit < 8 →
    ∃ r : DriveAnswer, (s.params.pinErrors = false → r = .ok) ∧
      exec .hdWrite s = .next { s with
        sda := s.tx.getLsbD (7 - s.bit), history := .drive .sda (s.tx.getLsbD (7 - s.bit)) r :: s.history,
        driveScript := s.driveScript.tail, draws := s.draws + 1, phase := .clkLow })

/-- R91, CLK_LOW of R99: the falling edge, in each of the six operations that move data. -/
def Obligations.ClockFalls : Prop :=
  ∀ (k : Instr) (s : State),
    k ∈ [Instr.fdRead, .fdWrite, .fdTransfer, .fdTransferInPlace, .hdRead, .hdWrite] → s.phase = .clkLow →
    ∃ r : DriveAnswer, (s.params.pinErrors = false → r = .ok) ∧
      exec k s = .next { s with
        sck := Level.low, history := .drive .sck Level.low r :: s.history, driveScript := s.driveScript.tail,
        draws := s.draws + 1, phase := .clkHigh }

/-- R91, R94, CLK_HIGH of R99: the rising edge of a receiving operation is followed at once by the sample. -/
def Obligations.ClockRisesBeforeSample : Prop :=
  ∀ (k : Instr) (s : State),
    k ∈ [Instr.fdRead, .fdTransfer, .fdTransferInPlace, .hdRead] → s.phase = .clkHigh →
    ∃ r : DriveAnswer, (s.params.pinErrors = false → r = .ok) ∧
      exec k s = .next { s with
        sck := Level.high, history := .drive .sck Level.high r :: s.history, driveScript := s.driveScript.tail,
        draws := s.draws + 1, phase := .sample }

/-- CLK_HIGH of R99: the rising edge of a transmit-only operation ends the bit cell, and the eighth cell ends the word. -/
def Obligations.ClockRiseEndsTransmitCell : Prop :=
  ∀ (k : Instr) (s : State), k ∈ [Instr.fdWrite, .hdWrite] → s.phase = .clkHigh →
    ∃ r : DriveAnswer, (s.params.pinErrors = false → r = .ok) ∧
      exec k s = .next { s with
        sck := Level.high, history := .drive .sck Level.high r :: s.history, driveScript := s.driveScript.tail,
        draws := s.draws + 1, bit := s.bit + 1,
        word := if s.bit + 1 < 8 then s.word else s.word + 1,
        phase := if s.bit + 1 < 8 then .drive else .load }

/-- R100, R15, SAMPLE of R99: the accumulator is shifted left by one and takes 1 exactly for the answer high; the answer is the
slave's, and never err when PIN_ERRORS is false. Log 3: it is a given one where there is one (but for a given err when PIN_ERRORS
is false), else free. -/
def Obligations.SampleShiftsAnswerIn : Prop :=
  ∀ (k : Instr) (s : State),
    k ∈ [Instr.fdRead, .fdTransfer, .fdTransferInPlace, .hdRead] → s.phase = .sample →
    ∃ a : SampleAnswer,
      (s.params.pinErrors = false → a ≠ .err) ∧
      (∀ b rest, s.sampleScript = b :: rest → s.params.pinErrors = true ∨ b ≠ .err → a = b) ∧
      exec k s = .next { s with
        rx := (s.rx <<< 1) ||| (if a = .high then 1#8 else 0#8),
        history := .sample (if k = .hdRead then .sda else .miso) a :: s.history,
        sampleScript := s.sampleScript.tail, draws := s.draws + 1, bit := s.bit + 1,
        phase := if s.bit + 1 < 8 then (if k ∈ [Instr.fdRead, .hdRead] then .clkLow else .drive) else .store }

/-- R103, STORE of R99: the received word goes to RX_ADDR + word, and every other byte keeps its value. -/
def Obligations.StoreWritesReceivedWord : Prop :=
  ∀ (k : Instr) (s : State),
    k ∈ [Instr.fdRead, .fdTransfer, .fdTransferInPlace, .hdRead] → s.phase = .store →
    s.rxAddr + s.word < 2 ^ s.params.addrW →
    ∃ m : Memory,
      m.read (s.rxAddr + s.word) = s.rx ∧ (∀ a, a ≠ s.rxAddr + s.word → m.read a = s.mem.read a) ∧
      exec k s = .next { s with
        mem := m, history := .memWrite (s.rxAddr + s.word) s.rx :: s.history, word := s.word + 1, phase := .load }

/-- R105, DONE of R99: the event, BUSY and the phase, in each of the ten operations. -/
def Obligations.DoneCompletesCommand : Prop :=
  ∀ (k : Instr) (s : State), s.phase = .done →
    exec k s = .next { s with history := .complete (0#5 ++ s.op) :: s.history, busy := false, phase := .idle }

/-- R101: after eight shifts the k-th sample stands in bit 7 − k, and nothing of the start value is left. -/
def Obligations.EightSamplesMakeTheWord : Prop :=
  ∀ (rx : Word) (l : List Level), l.length = 8 → ∀ k, (hk : k < l.length) → (l.foldl shiftIn rx).getLsbD (7 - k) = l[k]

/-! ### Frames -/

/-- R97: a step of a command performs at most one event, and never rewrites the history. -/
def Obligations.AtMostOneEventPerStep : Prop :=
  ∀ (k : Instr) (s t : State), exec k s = .next t → t.history = s.history ∨ ∃ e, t.history = e :: s.history

/-- R75, R76: no command changes an operand register, the parameters, or what stands with the host. -/
def Obligations.OperandRegistersUnchanged : Prop :=
  ∀ (k : Instr) (s t : State), exec k s = .next t →
    t.params = s.params ∧ t.rxAddr = s.rxAddr ∧ t.rxLen = s.rxLen ∧ t.txAddr = s.txAddr ∧ t.txLen = s.txLen ∧
    t.hostMoves = s.hostMoves ∧ t.hostReads = s.hostReads

/-- R51: only the four receiving operations write buffer memory, and only the byte RX_ADDR + word in STORE. -/
def Obligations.MemoryUnchangedElsewhere : Prop :=
  ∀ (k : Instr) (s t : State), exec k s = .next t →
    (k ∈ [Instr.fdWrite, .hdWrite, .fdFlush, .hdFlush, .hdTransfer, .hdTransferInPlace] → t.mem = s.mem) ∧
    (s.phase ≠ .store → t.mem = s.mem) ∧
    ∀ a, a ≠ s.rxAddr + s.word → t.mem.read a = s.mem.read a

/-- R106 (fd.read never drives MOSI; hd.read drives SDA only to 1, in PREP), R90 (SCK moves only in a pulse); and which of
the other commands drive which line. -/
def Obligations.LinesUnchangedElsewhere : Prop :=
  ∀ (k : Instr) (s t : State), exec k s = .next t →
    (s.phase ≠ .clkLow → s.phase ≠ .clkHigh → t.sck = s.sck) ∧
    (k ∈ [Instr.fdFlush, .hdFlush, .hdTransfer, .hdTransferInPlace] → t.sck = s.sck) ∧
    (s.phase ≠ .drive ∨ k ∉ [Instr.fdWrite, .fdTransfer, .fdTransferInPlace] → t.mosi = s.mosi) ∧
    ((s.phase ≠ .drive ∨ k ≠ .hdWrite) → (s.phase ≠ .prep ∨ k ≠ .hdRead) → t.sda = s.sda) ∧
    (k = .fdRead → ∀ v r, t.history ≠ .drive .mosi v r :: s.history) ∧
    (k = .hdRead → ∀ v r, t.history = .drive .sda v r :: s.history → s.phase = .prep ∧ v = Level.high)

/-- R31, R32, R40 to R44: which steps of a command write STATUS, CAUSE and the internal registers. -/
def Obligations.StatusAndPositionUnchangedElsewhere : Prop :=
  ∀ (k : Instr) (s t : State), exec k s = .next t →
    (s.phase ≠ .idle → t.faulted = s.faulted ∧ t.cause = s.cause ∧ t.op = s.op) ∧
    (s.phase ≠ .idle → s.phase ≠ .done → t.busy = s.busy) ∧
    (s.phase ≠ .idle → s.phase ≠ .store → s.phase ≠ .clkHigh → t.word = s.word) ∧
    (s.phase ≠ .idle → s.phase ≠ .load → s.phase ≠ .sample → s.phase ≠ .clkHigh → t.bit = s.bit) ∧
    (s.phase ≠ .load → s.phase ≠ .sample → t.rx = s.rx) ∧
    (s.phase ≠ .load → t.tx = s.tx)

/-! ### The host's port -/

/-- R29 to R38: what each register reads as, in IDLE and in FAULT. -/
def Obligations.RegisterReadsReturnFields : Prop :=
  ∀ (s : State) (n : BitVec 3) (rest : List HostMove),
    (s.phase = .idle ∨ s.phase = .fault) → s.hostMoves = .regRead n :: rest →
    step s = .next { s with
      hostMoves := rest
      hostReads :=
        (match n.toNat with
         | 0 => if s.params.variant = .hd then 1 else 0
         | 1 => (if s.faulted then 2 else 0) + (if s.busy then 1 else 0)
         | 2 => s.cause.toNat
         | 3 => 0
         | 4 => s.rxAddr
         | 5 => s.rxLen
         | 6 => s.txAddr
         | _ => s.txLen) :: s.hostReads }

/-- R38 (the spec's decisions D18, D35). A write of an operand register is of a value it can hold (log 7 says what the
model does with another). -/
def Obligations.RegisterAccessRules : Prop :=
  (∀ (s : State) (n : BitVec 3) (v : Nat) (rest : List HostMove),
    s.phase = .idle → s.hostMoves = .regWrite n v :: rest →
    (n ∈ [0#3, 1#3, 2#3] → step s = .next { s with hostMoves := rest }) ∧
    (n = 4#3 → v < 2 ^ s.params.addrW → step s = .next { s with hostMoves := rest, rxAddr := v }) ∧
    (n = 5#3 → v < 2 ^ s.params.lenW → step s = .next { s with hostMoves := rest, rxLen := v }) ∧
    (n = 6#3 → v < 2 ^ s.params.addrW → step s = .next { s with hostMoves := rest, txAddr := v }) ∧
    (n = 7#3 → v < 2 ^ s.params.lenW → step s = .next { s with hostMoves := rest, txLen := v })) ∧
  (∀ s : State, regRead (ctrlReg 3#3) s = 0) ∧
  (∀ (s : State) (n : BitVec 3) (v : Nat) (rest : List HostMove),
    s.phase = .fault → s.hostMoves = .regWrite n v :: rest → step s = .next { s with hostMoves := rest }) ∧
  (∀ (s : State) (n : BitVec 3) (rest : List HostMove),
    s.phase = .fault → s.hostMoves = .regRead n :: rest →
    step s = .next { s with hostMoves := rest, hostReads := regRead (ctrlReg n) s :: s.hostReads }) ∧
  (∀ s t : State, s.phase ≠ .idle → s.phase ≠ .fault → step s = .next t →
    t.hostMoves = s.hostMoves ∧ t.hostReads = s.hostReads)

/-- R50: buffer memory as the host sees it: a read returns the last value written. -/
def Obligations.HostReadsWhatItWrote : Prop :=
  ∀ (s : State) (a b : Nat) (v : Word) (rest : List HostMove),
    s.phase = .idle → s.hostMoves = .memWrite a v :: .memRead b :: rest →
    a < 2 ^ s.params.addrW → b < 2 ^ s.params.addrW →
    ∃ t, run 2 s = .next t ∧ t.hostMoves = rest ∧
      t.hostReads = (if b = a then v.toNat else (s.mem.read b).toNat) :: s.hostReads

/-- R168, R160 (the spec's decision D16): only a construction leaves FAULT; until then no step changes anything of the engine
or of buffer memory. That an ignored register write or a register read (R38) is a step of the machine there is the model's
reading (log 11). -/
def Obligations.FaultIsTerminal : Prop :=
  ∀ s t : State, s.phase = .fault → step s = .next t →
    (∃ v rest, s.hostMoves = .construct v :: rest) ∨
    (t = { s with hostMoves := s.hostMoves.tail, hostReads := t.hostReads } ∧
      (t.hostReads = s.hostReads ∨
        ∃ n rest, s.hostMoves = .regRead n :: rest ∧ t.hostReads = regRead (ctrlReg n) s :: s.hostReads))

/-- R190, R192: a construction starts again and keeps nothing of the old instance. That it is one step is log 17; that buffer memory and the host's moves stay, and
that the move may change the variant, is log 12; that the field `sda` is high on FD, which has no such state, is log 2. -/
def Obligations.ConstructionStartsAgain : Prop :=
  ∀ (s : State) (v : Variant) (rest : List HostMove),
    (s.phase = .idle ∨ s.phase = .fault) → s.hostMoves = .construct v :: rest →
    ∃ (t : State) (r₁ r₂ : DriveAnswer), step s = .next t ∧ (s.params.pinErrors = false → r₁ = .ok ∧ r₂ = .ok) ∧
      t.params = { s.params with variant := v } ∧ t.phase = .idle ∧ t.sck = Level.high ∧ t.mosi = none ∧
      t.busy = false ∧ t.faulted = false ∧ t.cause = 0#8 ∧
      t.rxAddr = 0 ∧ t.rxLen = 0 ∧ t.txAddr = 0 ∧ t.txLen = 0 ∧
      t.op = 0#3 ∧ t.word = 0 ∧ t.bit = 0 ∧ t.tx = 0#8 ∧ t.rx = 0#8 ∧ t.sda = Level.high ∧
      t.mem = s.mem ∧ t.hostMoves = rest ∧
      t.history =
        match v with
        | .fd => [.drive .sck Level.high r₁]
        | .hd => [.drive .sda Level.high r₂, .drive .sck Level.high r₁]

/-- R2, R8: the parameters of an instance never change; only the construction of another instance sets the variant. -/
def Obligations.ParametersFixedForInstance : Prop :=
  ∀ s t : State, step s = .next t →
    t.params = s.params ∨
    ∃ v rest, s.hostMoves = .construct v :: rest ∧ (s.phase = .idle ∨ s.phase = .fault) ∧
      t.params = { s.params with variant := v }

/-- R80, R82 (the spec's decisions D26, D18): the register writes of an assembly line issue its operation with its operands. -/
def Obligations.AssembledLineIssuesItsCommand : Prop :=
  ∀ (s : State) (l : AsmLine) (rest : List HostMove),
    s.phase = .idle → l.wf s.params = true → s.hostMoves = assemble l ++ rest →
    run (assemble l).length s = exec (l.instr s.params.variant) (l.operands { s with hostMoves := rest })

/-! ### Whole commands -/

/-- R104 and R107 (the spec's decision D32; R107 is derived): from an accepting state each of the ten operations runs to completion, in
the number of steps R107 gives, and does exactly what the loops of R104 do. -/
def Obligations.EveryCommandCompletes : Prop :=
  ∀ (k : Instr) (s : State), k.wf s.params.variant = true → Acceptable k s →
    ∃ t, exec k s = .next t ∧ run (stepCount k (lengthOf k s) - 1) t = .next (bitloop k s)

/-- R129, R144, R146, R148: the four operations without bit cells complete in two steps from every IDLE state, whatever the operands,
and only the op latch, the position and the Complete event are new. That op, word and bit are written follows R99 `accept`, where
R149 says that hd.flush changes no state but STATUS.BUSY: the model's reading (log 13). -/
def Obligations.CommandsWithoutCellsOnlyComplete : Prop :=
  decodeKey 0x005#9 = .op .fdFlush ∧ decodeKey 0x103#9 = .op .hdTransfer ∧
  decodeKey 0x104#9 = .op .hdTransferInPlace ∧ decodeKey 0x105#9 = .op .hdFlush ∧
  ∀ (k : Instr) (s : State), k ∈ [Instr.fdFlush, .hdTransfer, .hdTransferInPlace, .hdFlush] →
    k.wf s.params.variant = true → s.phase = .idle →
    ∃ t, exec k s = .next t ∧ t.busy = true ∧
      run 1 t = .next { s with
        op := k.opcode, word := 0, bit := 0, busy := false, history := .complete k.cmd :: s.history }

/-- R120, R124, R127, R140, what they store: word i of the RX buffer becomes the word the samples 8i to 8i + 7 of the command
build, and no other byte changes. -/
def Obligations.ReceivedWordsAreTheSamples : Prop :=
  ∀ (k : Instr) (s : State), k ∈ [Instr.fdRead, .fdTransfer, .fdTransferInPlace, .hdRead] →
    k.wf s.params.variant = true → Acceptable k s →
    ∃ (t u : State) (new : List Event),
      exec k s = .next t ∧ run (stepCount k s.rxLen - 1) t = .next u ∧ u.phase = .idle ∧
      u.history = new ++ s.history ∧ (samplesOf new).length = 8 * s.rxLen ∧
      (∀ i, i < s.rxLen →
        u.mem.read (s.rxAddr + i) = wordOfSamples ((((samplesOf new).drop (8 * i)).take 8).map levelOf)) ∧
      (∀ a, (a < s.rxAddr ∨ s.rxAddr + s.rxLen ≤ a) → u.mem.read a = s.mem.read a)

/-- R122, R124, R127, R142, what they send: DOUT carries the words of the source buffer as they stood before the command, in buffer
order (R54) and bit 7 first (R55), and nothing else is driven onto it. -/
def Obligations.TransmittedBitsAreTheWords : Prop :=
  ∀ (k : Instr) (s : State), k ∈ [Instr.fdWrite, .fdTransfer, .fdTransferInPlace, .hdWrite] →
    k.wf s.params.variant = true → Acceptable k s →
    ∃ (t u : State) (new : List Event),
      exec k s = .next t ∧ run (stepCount k (lengthOf k s) - 1) t = .next u ∧ u.phase = .idle ∧
      u.history = new ++ s.history ∧
      drivenLevels (if k = .hdWrite then .sda else .mosi) new =
        (List.range (lengthOf k s)).flatMap
          (fun i => wireBits (s.mem.read ((if k = .fdTransferInPlace then s.rxAddr else s.txAddr) + i)))

/-- R123, R126, R143: after a transmitting command the data line keeps bit 0 of the last word sent, and an empty one leaves it. -/
def Obligations.TransmitLeavesLastBit : Prop :=
  ∀ (k : Instr) (s : State), k ∈ [Instr.fdWrite, .fdTransfer, .fdTransferInPlace, .hdWrite] →
    k.wf s.params.variant = true → Acceptable k s →
    ∃ t u : State, exec k s = .next t ∧ run (stepCount k (lengthOf k s) - 1) t = .next u ∧
      (lengthOf k s = 0 → u.mosi = s.mosi ∧ u.sda = s.sda) ∧
      (∀ n, lengthOf k s = n + 1 →
        let last := (s.mem.read ((if k = .fdTransferInPlace then s.rxAddr else s.txAddr) + n)).getLsbD 0
        if k = .hdWrite then u.sda = last ∧ u.mosi = s.mosi else u.mosi = some last ∧ u.sda = s.sda)

/-- R121, R123, R126, R128, R141, R143, their first bullets: a command with an empty buffer performs no event but Complete, and hd.read
before it its PREP drive. -/
def Obligations.EmptyCommandsOnlyComplete : Prop :=
  ∀ (k : Instr) (s : State), movesData k = true → k.wf s.params.variant = true → Acceptable k s → lengthOf k s = 0 →
    ∃ (t u : State) (r : DriveAnswer), exec k s = .next t ∧ run (stepCount k 0 - 1) t = .next u ∧ u.mem = s.mem ∧
      u.history = .complete k.cmd :: (if k = .hdRead then .drive .sda Level.high r :: s.history else s.history)

/-- R108 (derived): the counts of a whole command's events. -/
def Obligations.EventCountsOfACommand : Prop :=
  ∀ (k : Instr) (s : State), k.wf s.params.variant = true → Acceptable k s →
    ∃ (t u : State) (new : List Event),
      exec k s = .next t ∧ run (stepCount k (lengthOf k s) - 1) t = .next u ∧ u.history = new ++ s.history ∧
      let n := lengthOf k s
      new.countP (isDrive .sck) = (if movesData k then 16 * n else 0) ∧
      new.countP (isDrive (dout k)) = (if transmits k then 8 * n else if k = .hdRead then 1 else 0) ∧
      new.countP isSample = (if receives k then 8 * n else 0) ∧
      new.countP isMemRead = (if transmits k then n else 0) ∧
      new.countP isMemWrite = (if receives k then n else 0) ∧
      new.countP isComplete = 1 ∧
      new.length =
        match k with
        | .fdRead | .fdWrite | .hdWrite => 25 * n + 1
        | .fdTransfer | .fdTransferInPlace => 34 * n + 1
        | .hdRead => 25 * n + 2
        | .fdFlush | .hdFlush | .hdTransfer | .hdTransferInPlace => 1

/-- R128, last bullet (derived): with a slave that answers every sample of the command with the bit its own cell drives onto MOSI (the
loopback law), fd.transfer_in_place leaves buffer memory as it was. -/
def Obligations.LoopbackKeepsTheBuffer : Prop :=
  ∀ (s : State) (rest : List SampleAnswer), Instr.fdTransferInPlace.wf s.params.variant = true →
    Acceptable .fdTransferInPlace s →
    s.sampleScript =
      (List.range s.rxLen).flatMap
        (fun i => (wireBits (s.mem.read (s.rxAddr + i))).map (fun b => if b then .high else .low)) ++ rest →
    ∃ t u : State, exec .fdTransferInPlace s = .next t ∧ run (stepCount .fdTransferInPlace s.rxLen - 1) t = .next u ∧
      u.sampleScript = rest ∧ ∀ a, u.mem.read a = s.mem.read a

/-- R15, R166: two states that differ only in the pin layer's answers, given and to come, take steps that differ only in them. (The
slave's next answer is a given one, so that it cannot depend on the history.) -/
def Obligations.PinAnswersChangeNothingElse : Prop :=
  ∀ (k : Instr) (s t : State) (h : List Event) (d : List DriveAnswer) (n : Nat),
    exec k s = .next t → (s.phase = .sample → s.sampleScript ≠ []) →
    h.map eraseAnswer = s.history.map eraseAnswer →
    ∃ (h' : List Event) (d' : List DriveAnswer) (n' : Nat),
      exec k (withAnswers h d n s) = .next (withAnswers h' d' n' t) ∧
      h'.map eraseAnswer = t.history.map eraseAnswer

/-- R48, R109 (derived): outside a pulse the physical level of SCK is high, as far as it is known (R15). -/
def Obligations.ClockRestsHigh : Prop :=
  ∀ s : State, Inv s → s.phase ≠ .clkHigh →
    s.sck = Level.high ∧ (knownLevel s.history .sck ≠ none → physicalLevel s .sck = Level.high)
end

