-- ==== Sys2Proof/Laws/Issue.lean ====
section
/-! SUPPORT. What a move of the host can do: one lemma per move and phase, which later proofs cite instead of unfolding
`hostMove` (R38, R62, R82, R192). -/

namespace Sys2Proof.Machine

@[simp] theorem hostMove_of_fault {m : HostMove} {s : State} (h : s.phase = .fault) : hostMove m s = faultMove m s := by
  simp [hostMove, h]

@[simp] theorem hostMove_of_idle {m : HostMove} {s : State} (h : s.phase = .idle) : hostMove m s = idleMove m s := by
  simp [hostMove, h]

/-- R38: a read-only register ignores every value. -/
@[simp] theorem regWriteMove_config (v : Nat) (s : State) : regWriteMove .config v s = .next s := rfl
@[simp] theorem regWriteMove_status (v : Nat) (s : State) : regWriteMove .status v s = .next s := rfl
@[simp] theorem regWriteMove_cause (v : Nat) (s : State) : regWriteMove .cause v s = .next s := rfl

/-- R82: a write of CMD issues the command. -/
theorem regWriteMove_cmd {v : Nat} {s : State} (h : v < 2 ^ 8) :
    regWriteMove .cmd v s = issue (BitVec.ofNat 8 v) s := if_pos h

theorem memWriteMove_next_iff {a : Nat} {v : Word} {s t : State} :
    memWriteMove a v s = .next t ↔ a < 2 ^ s.params.addrW ∧ t = { s with mem := s.mem.write a v } := by
  simp only [memWriteMove, State.hasAddress, decide_eq_true_eq]
  split <;> simp_all [eq_comm]

theorem memReadMove_next_iff {a : Nat} {s t : State} :
    memReadMove a s = .next t ↔
      a < 2 ^ s.params.addrW ∧ t = { s with hostReads := (s.mem.read a).toNat :: s.hostReads } := by
  simp only [memReadMove, State.hasAddress, decide_eq_true_eq]
  split <;> simp_all [eq_comm]

/-- What a register write in IDLE can do: it issues a command, or it sets a register of that width and nothing else. -/
theorem regWriteMove_next {r : CtrlReg} {v : Nat} {s t : State} (h : regWriteMove r v s = .next t) :
    (r = .cmd ∧ v < 2 ^ 8 ∧ issue (BitVec.ofNat 8 v) s = .next t) ∨
    (r ∈ [CtrlReg.config, .status, .cause] ∧ t = s) ∨
    (r ∈ [CtrlReg.rxAddr, .rxLen, .txAddr, .txLen] ∧ v < 2 ^ regWidth s.params r ∧ t = regWrite r v s) := by
  cases r <;> simp only [regWriteMove] at h <;> try split at h
  all_goals simp_all [regWrite, regWidth]

/-- What a move in FAULT can do: an ignored register write, a register read, or a new construction. -/
theorem faultMove_next_iff {m : HostMove} {s t : State} :
    faultMove m s = .next t ↔
      (∃ n v, m = .regWrite n v ∧ t = s) ∨
      (∃ n, m = .regRead n ∧ t = { s with hostReads := regRead (ctrlReg n) s :: s.hostReads }) ∨
      (∃ v, m = .construct v ∧ t = reconstruct v s) := by
  cases m <;> simp [faultMove, regReadMove, eq_comm]

end Sys2Proof.Machine
end

