-- ==== Sys2Proof/Laws/Memory.lean ====
section
/-! SUPPORT. The laws of buffer memory (R50): a read gives the last value written, a write leaves every other byte
alone, and every operation keeps the canonical form. -/

namespace Sys2Proof.Machine

@[simp] theorem Memory.lookup_write_same (m : Memory) (a : Nat) (v : Word) : (m.write a v).lookup a = some v := by
  induction m with
  | nil => simp [Memory.write, Memory.lookup]
  | cons c rest ih =>
    obtain ⟨b, w⟩ := c
    simp only [Memory.write]
    split
    · simp [Memory.lookup]
    · split
      · simp [Memory.lookup]
      · next h => simp [Memory.lookup, h, ih]

theorem Memory.lookup_write_other (m : Memory) {a b : Nat} (v : Word) (h : b ≠ a) :
    (m.write a v).lookup b = m.lookup b := by
  induction m with
  | nil => simp [Memory.write, Memory.lookup, h]
  | cons c rest ih =>
    obtain ⟨d, w⟩ := c
    simp only [Memory.write]
    split
    · simp [Memory.lookup, h]
    · split
      · next hd => subst hd; simp [Memory.lookup, h]
      · simp [Memory.lookup, ih]

@[simp] theorem Memory.read_write_same (m : Memory) (a : Nat) (v : Word) : (m.write a v).read a = v := by
  simp [Memory.read]

theorem Memory.read_write_other (m : Memory) {a b : Nat} (v : Word) (h : b ≠ a) : (m.write a v).read b = m.read b := by
  simp [Memory.read, Memory.lookup_write_other m v h]

/-- The form unfolds along the list: the head is below everything after it. -/
theorem Memory.wf_cons (a : Nat) (v : Word) (m : Memory) :
    Memory.wf ((a, v) :: m) = true ↔ (∀ c ∈ m, a < c.1) ∧ m.wf = true := by
  induction m generalizing a v with
  | nil => simp [Memory.wf]
  | cons c rest ih =>
    obtain ⟨b, w⟩ := c
    have unfold_two : Memory.wf ((a, v) :: (b, w) :: rest) = (decide (a < b) && Memory.wf ((b, w) :: rest)) := rfl
    rw [unfold_two]
    simp only [Bool.and_eq_true, decide_eq_true_eq, ih b w, List.forall_mem_cons]
    constructor
    · rintro ⟨hab, hb, hr⟩
      exact ⟨⟨hab, fun c hc => Nat.lt_trans hab (hb c hc)⟩, hb, hr⟩
    · rintro ⟨⟨hab, -⟩, hb, hr⟩
      exact ⟨hab, hb, hr⟩

/-- What a written memory lists: the new byte, and bytes that were listed before. -/
theorem Memory.mem_write {m : Memory} {a : Nat} {v : Word} {c : Host.Cell} (h : c ∈ m.write a v) :
    c = (a, v) ∨ c ∈ m := by
  induction m with
  | nil => simpa [Memory.write] using h
  | cons d rest ih =>
    obtain ⟨b, w⟩ := d
    simp only [Memory.write] at h
    split at h
    · simpa using h
    · split at h
      · rcases List.mem_cons.mp h with h | h
        · exact .inl h
        · exact .inr (List.mem_cons_of_mem _ h)
      · rcases List.mem_cons.mp h with h | h
        · exact .inr (by simp [h])
        · rcases ih h with h | h
          · exact .inl h
          · exact .inr (List.mem_cons_of_mem _ h)

/-- A write keeps the canonical form. -/
theorem Memory.wf_write {m : Memory} (hm : m.wf = true) (a : Nat) (v : Word) : (m.write a v).wf = true := by
  induction m with
  | nil => rfl
  | cons c rest ih =>
    obtain ⟨b, w⟩ := c
    obtain ⟨hb, hr⟩ := (Memory.wf_cons b w rest).mp hm
    simp only [Memory.write]
    split
    · next hab =>
      refine (Memory.wf_cons _ _ _).mpr ⟨?_, hm⟩
      intro c hc
      rcases List.mem_cons.mp hc with hc | hc
      · simpa [hc] using hab
      · exact Nat.lt_trans hab (hb c hc)
    · split
      · next hab => subst hab; exact (Memory.wf_cons _ _ _).mpr ⟨hb, hr⟩
      · next h1 h2 =>
        refine (Memory.wf_cons _ _ _).mpr ⟨?_, ih hr⟩
        intro c hc
        rcases Memory.mem_write hc with hc | hc
        · simp only [hc]; omega
        · exact hb c hc

/-- A write inside the address space lists nothing outside it. -/
theorem Memory.inside_write {m : Memory} {n a : Nat} {v : Word} (hm : ∀ c ∈ m, c.1 < n) (ha : a < n) :
    ∀ c ∈ m.write a v, c.1 < n := by
  intro c hc
  rcases Memory.mem_write hc with hc | hc
  · simpa [hc] using ha
  · exact hm c hc

end Sys2Proof.Machine
end

