-- ==== Sys2Proof/Laws/State.lean ====
section
/-! SUPPORT. What each update of the state does to each field: one lemma per field per update. -/

namespace Sys2Proof.Machine

/-! ### drive -/

@[simp] theorem drive_params (p : Pin) (v : Level) (s : State) : (drive p v s).params = s.params := rfl
@[simp] theorem drive_sck (p : Pin) (v : Level) (s : State) : (drive p v s).sck = (if p = .sck then v else s.sck) := rfl
@[simp] theorem drive_mosi (p : Pin) (v : Level) (s : State) : (drive p v s).mosi = (if p = .mosi then some v else s.mosi) := rfl
@[simp] theorem drive_sda (p : Pin) (v : Level) (s : State) : (drive p v s).sda = (if p = .sda then v else s.sda) := rfl
@[simp] theorem drive_busy (p : Pin) (v : Level) (s : State) : (drive p v s).busy = s.busy := rfl
@[simp] theorem drive_faulted (p : Pin) (v : Level) (s : State) : (drive p v s).faulted = s.faulted := rfl
@[simp] theorem drive_cause (p : Pin) (v : Level) (s : State) : (drive p v s).cause = s.cause := rfl
@[simp] theorem drive_rxAddr (p : Pin) (v : Level) (s : State) : (drive p v s).rxAddr = s.rxAddr := rfl
@[simp] theorem drive_rxLen (p : Pin) (v : Level) (s : State) : (drive p v s).rxLen = s.rxLen := rfl
@[simp] theorem drive_txAddr (p : Pin) (v : Level) (s : State) : (drive p v s).txAddr = s.txAddr := rfl
@[simp] theorem drive_txLen (p : Pin) (v : Level) (s : State) : (drive p v s).txLen = s.txLen := rfl
@[simp] theorem drive_phase (p : Pin) (v : Level) (s : State) : (drive p v s).phase = s.phase := rfl
@[simp] theorem drive_op (p : Pin) (v : Level) (s : State) : (drive p v s).op = s.op := rfl
@[simp] theorem drive_word (p : Pin) (v : Level) (s : State) : (drive p v s).word = s.word := rfl
@[simp] theorem drive_bit (p : Pin) (v : Level) (s : State) : (drive p v s).bit = s.bit := rfl
@[simp] theorem drive_tx (p : Pin) (v : Level) (s : State) : (drive p v s).tx = s.tx := rfl
@[simp] theorem drive_rx (p : Pin) (v : Level) (s : State) : (drive p v s).rx = s.rx := rfl
@[simp] theorem drive_mem (p : Pin) (v : Level) (s : State) : (drive p v s).mem = s.mem := rfl
@[simp] theorem drive_history (p : Pin) (v : Level) (s : State) : (drive p v s).history = (.drive p v (driveAnswer p v s) :: s.history) := rfl
@[simp] theorem drive_hostMoves (p : Pin) (v : Level) (s : State) : (drive p v s).hostMoves = s.hostMoves := rfl
@[simp] theorem drive_hostReads (p : Pin) (v : Level) (s : State) : (drive p v s).hostReads = s.hostReads := rfl
@[simp] theorem drive_driveScript (p : Pin) (v : Level) (s : State) : (drive p v s).driveScript = (s.driveScript.tail) := rfl
@[simp] theorem drive_sampleScript (p : Pin) (v : Level) (s : State) : (drive p v s).sampleScript = s.sampleScript := rfl
@[simp] theorem drive_draws (p : Pin) (v : Level) (s : State) : (drive p v s).draws = (s.draws + 1) := rfl

/-! ### sampleShift -/

@[simp] theorem sampleShift_params (p : Pin) (s : State) : (sampleShift p s).params = s.params := rfl
@[simp] theorem sampleShift_sck (p : Pin) (s : State) : (sampleShift p s).sck = s.sck := rfl
@[simp] theorem sampleShift_mosi (p : Pin) (s : State) : (sampleShift p s).mosi = s.mosi := rfl
@[simp] theorem sampleShift_sda (p : Pin) (s : State) : (sampleShift p s).sda = s.sda := rfl
@[simp] theorem sampleShift_busy (p : Pin) (s : State) : (sampleShift p s).busy = s.busy := rfl
@[simp] theorem sampleShift_faulted (p : Pin) (s : State) : (sampleShift p s).faulted = s.faulted := rfl
@[simp] theorem sampleShift_cause (p : Pin) (s : State) : (sampleShift p s).cause = s.cause := rfl
@[simp] theorem sampleShift_rxAddr (p : Pin) (s : State) : (sampleShift p s).rxAddr = s.rxAddr := rfl
@[simp] theorem sampleShift_rxLen (p : Pin) (s : State) : (sampleShift p s).rxLen = s.rxLen := rfl
@[simp] theorem sampleShift_txAddr (p : Pin) (s : State) : (sampleShift p s).txAddr = s.txAddr := rfl
@[simp] theorem sampleShift_txLen (p : Pin) (s : State) : (sampleShift p s).txLen = s.txLen := rfl
@[simp] theorem sampleShift_phase (p : Pin) (s : State) : (sampleShift p s).phase = s.phase := rfl
@[simp] theorem sampleShift_op (p : Pin) (s : State) : (sampleShift p s).op = s.op := rfl
@[simp] theorem sampleShift_word (p : Pin) (s : State) : (sampleShift p s).word = s.word := rfl
@[simp] theorem sampleShift_bit (p : Pin) (s : State) : (sampleShift p s).bit = s.bit := rfl
@[simp] theorem sampleShift_tx (p : Pin) (s : State) : (sampleShift p s).tx = s.tx := rfl
@[simp] theorem sampleShift_rx (p : Pin) (s : State) : (sampleShift p s).rx = (shiftIn s.rx (levelOf (sampleAnswer p s))) := rfl
@[simp] theorem sampleShift_mem (p : Pin) (s : State) : (sampleShift p s).mem = s.mem := rfl
@[simp] theorem sampleShift_history (p : Pin) (s : State) : (sampleShift p s).history = (.sample p (sampleAnswer p s) :: s.history) := rfl
@[simp] theorem sampleShift_hostMoves (p : Pin) (s : State) : (sampleShift p s).hostMoves = s.hostMoves := rfl
@[simp] theorem sampleShift_hostReads (p : Pin) (s : State) : (sampleShift p s).hostReads = s.hostReads := rfl
@[simp] theorem sampleShift_driveScript (p : Pin) (s : State) : (sampleShift p s).driveScript = s.driveScript := rfl
@[simp] theorem sampleShift_sampleScript (p : Pin) (s : State) : (sampleShift p s).sampleScript = (s.sampleScript.tail) := rfl
@[simp] theorem sampleShift_draws (p : Pin) (s : State) : (sampleShift p s).draws = (s.draws + 1) := rfl

/-! ### loadTx -/

@[simp] theorem loadTx_params (a : Nat) (s : State) : (loadTx a s).params = s.params := rfl
@[simp] theorem loadTx_sck (a : Nat) (s : State) : (loadTx a s).sck = s.sck := rfl
@[simp] theorem loadTx_mosi (a : Nat) (s : State) : (loadTx a s).mosi = s.mosi := rfl
@[simp] theorem loadTx_sda (a : Nat) (s : State) : (loadTx a s).sda = s.sda := rfl
@[simp] theorem loadTx_busy (a : Nat) (s : State) : (loadTx a s).busy = s.busy := rfl
@[simp] theorem loadTx_faulted (a : Nat) (s : State) : (loadTx a s).faulted = s.faulted := rfl
@[simp] theorem loadTx_cause (a : Nat) (s : State) : (loadTx a s).cause = s.cause := rfl
@[simp] theorem loadTx_rxAddr (a : Nat) (s : State) : (loadTx a s).rxAddr = s.rxAddr := rfl
@[simp] theorem loadTx_rxLen (a : Nat) (s : State) : (loadTx a s).rxLen = s.rxLen := rfl
@[simp] theorem loadTx_txAddr (a : Nat) (s : State) : (loadTx a s).txAddr = s.txAddr := rfl
@[simp] theorem loadTx_txLen (a : Nat) (s : State) : (loadTx a s).txLen = s.txLen := rfl
@[simp] theorem loadTx_phase (a : Nat) (s : State) : (loadTx a s).phase = s.phase := rfl
@[simp] theorem loadTx_op (a : Nat) (s : State) : (loadTx a s).op = s.op := rfl
@[simp] theorem loadTx_word (a : Nat) (s : State) : (loadTx a s).word = s.word := rfl
@[simp] theorem loadTx_bit (a : Nat) (s : State) : (loadTx a s).bit = s.bit := rfl
@[simp] theorem loadTx_tx (a : Nat) (s : State) : (loadTx a s).tx = (s.mem.read a) := rfl
@[simp] theorem loadTx_rx (a : Nat) (s : State) : (loadTx a s).rx = s.rx := rfl
@[simp] theorem loadTx_mem (a : Nat) (s : State) : (loadTx a s).mem = s.mem := rfl
@[simp] theorem loadTx_history (a : Nat) (s : State) : (loadTx a s).history = (.memRead a (s.mem.read a) :: s.history) := rfl
@[simp] theorem loadTx_hostMoves (a : Nat) (s : State) : (loadTx a s).hostMoves = s.hostMoves := rfl
@[simp] theorem loadTx_hostReads (a : Nat) (s : State) : (loadTx a s).hostReads = s.hostReads := rfl
@[simp] theorem loadTx_driveScript (a : Nat) (s : State) : (loadTx a s).driveScript = s.driveScript := rfl
@[simp] theorem loadTx_sampleScript (a : Nat) (s : State) : (loadTx a s).sampleScript = s.sampleScript := rfl
@[simp] theorem loadTx_draws (a : Nat) (s : State) : (loadTx a s).draws = s.draws := rfl

/-! ### storeRx -/

@[simp] theorem storeRx_params (a : Nat) (s : State) : (storeRx a s).params = s.params := rfl
@[simp] theorem storeRx_sck (a : Nat) (s : State) : (storeRx a s).sck = s.sck := rfl
@[simp] theorem storeRx_mosi (a : Nat) (s : State) : (storeRx a s).mosi = s.mosi := rfl
@[simp] theorem storeRx_sda (a : Nat) (s : State) : (storeRx a s).sda = s.sda := rfl
@[simp] theorem storeRx_busy (a : Nat) (s : State) : (storeRx a s).busy = s.busy := rfl
@[simp] theorem storeRx_faulted (a : Nat) (s : State) : (storeRx a s).faulted = s.faulted := rfl
@[simp] theorem storeRx_cause (a : Nat) (s : State) : (storeRx a s).cause = s.cause := rfl
@[simp] theorem storeRx_rxAddr (a : Nat) (s : State) : (storeRx a s).rxAddr = s.rxAddr := rfl
@[simp] theorem storeRx_rxLen (a : Nat) (s : State) : (storeRx a s).rxLen = s.rxLen := rfl
@[simp] theorem storeRx_txAddr (a : Nat) (s : State) : (storeRx a s).txAddr = s.txAddr := rfl
@[simp] theorem storeRx_txLen (a : Nat) (s : State) : (storeRx a s).txLen = s.txLen := rfl
@[simp] theorem storeRx_phase (a : Nat) (s : State) : (storeRx a s).phase = s.phase := rfl
@[simp] theorem storeRx_op (a : Nat) (s : State) : (storeRx a s).op = s.op := rfl
@[simp] theorem storeRx_word (a : Nat) (s : State) : (storeRx a s).word = s.word := rfl
@[simp] theorem storeRx_bit (a : Nat) (s : State) : (storeRx a s).bit = s.bit := rfl
@[simp] theorem storeRx_tx (a : Nat) (s : State) : (storeRx a s).tx = s.tx := rfl
@[simp] theorem storeRx_rx (a : Nat) (s : State) : (storeRx a s).rx = s.rx := rfl
@[simp] theorem storeRx_mem (a : Nat) (s : State) : (storeRx a s).mem = (s.mem.write a s.rx) := rfl
@[simp] theorem storeRx_history (a : Nat) (s : State) : (storeRx a s).history = (.memWrite a s.rx :: s.history) := rfl
@[simp] theorem storeRx_hostMoves (a : Nat) (s : State) : (storeRx a s).hostMoves = s.hostMoves := rfl
@[simp] theorem storeRx_hostReads (a : Nat) (s : State) : (storeRx a s).hostReads = s.hostReads := rfl
@[simp] theorem storeRx_driveScript (a : Nat) (s : State) : (storeRx a s).driveScript = s.driveScript := rfl
@[simp] theorem storeRx_sampleScript (a : Nat) (s : State) : (storeRx a s).sampleScript = s.sampleScript := rfl
@[simp] theorem storeRx_draws (a : Nat) (s : State) : (storeRx a s).draws = s.draws := rfl

/-! ### completeCommand -/

@[simp] theorem completeCommand_params (s : State) : (completeCommand s).params = s.params := rfl
@[simp] theorem completeCommand_sck (s : State) : (completeCommand s).sck = s.sck := rfl
@[simp] theorem completeCommand_mosi (s : State) : (completeCommand s).mosi = s.mosi := rfl
@[simp] theorem completeCommand_sda (s : State) : (completeCommand s).sda = s.sda := rfl
@[simp] theorem completeCommand_busy (s : State) : (completeCommand s).busy = (false) := rfl
@[simp] theorem completeCommand_faulted (s : State) : (completeCommand s).faulted = s.faulted := rfl
@[simp] theorem completeCommand_cause (s : State) : (completeCommand s).cause = s.cause := rfl
@[simp] theorem completeCommand_rxAddr (s : State) : (completeCommand s).rxAddr = s.rxAddr := rfl
@[simp] theorem completeCommand_rxLen (s : State) : (completeCommand s).rxLen = s.rxLen := rfl
@[simp] theorem completeCommand_txAddr (s : State) : (completeCommand s).txAddr = s.txAddr := rfl
@[simp] theorem completeCommand_txLen (s : State) : (completeCommand s).txLen = s.txLen := rfl
@[simp] theorem completeCommand_phase (s : State) : (completeCommand s).phase = (.idle) := rfl
@[simp] theorem completeCommand_op (s : State) : (completeCommand s).op = s.op := rfl
@[simp] theorem completeCommand_word (s : State) : (completeCommand s).word = s.word := rfl
@[simp] theorem completeCommand_bit (s : State) : (completeCommand s).bit = s.bit := rfl
@[simp] theorem completeCommand_tx (s : State) : (completeCommand s).tx = s.tx := rfl
@[simp] theorem completeCommand_rx (s : State) : (completeCommand s).rx = s.rx := rfl
@[simp] theorem completeCommand_mem (s : State) : (completeCommand s).mem = s.mem := rfl
@[simp] theorem completeCommand_history (s : State) : (completeCommand s).history = (.complete (0#5 ++ s.op) :: s.history) := rfl
@[simp] theorem completeCommand_hostMoves (s : State) : (completeCommand s).hostMoves = s.hostMoves := rfl
@[simp] theorem completeCommand_hostReads (s : State) : (completeCommand s).hostReads = s.hostReads := rfl
@[simp] theorem completeCommand_driveScript (s : State) : (completeCommand s).driveScript = s.driveScript := rfl
@[simp] theorem completeCommand_sampleScript (s : State) : (completeCommand s).sampleScript = s.sampleScript := rfl
@[simp] theorem completeCommand_draws (s : State) : (completeCommand s).draws = s.draws := rfl

/-! ### raiseFault -/

@[simp] theorem raiseFault_params (c : FaultCause) (s : State) : (raiseFault c s).params = s.params := rfl
@[simp] theorem raiseFault_sck (c : FaultCause) (s : State) : (raiseFault c s).sck = s.sck := rfl
@[simp] theorem raiseFault_mosi (c : FaultCause) (s : State) : (raiseFault c s).mosi = s.mosi := rfl
@[simp] theorem raiseFault_sda (c : FaultCause) (s : State) : (raiseFault c s).sda = s.sda := rfl
@[simp] theorem raiseFault_busy (c : FaultCause) (s : State) : (raiseFault c s).busy = (false) := rfl
@[simp] theorem raiseFault_faulted (c : FaultCause) (s : State) : (raiseFault c s).faulted = (true) := rfl
@[simp] theorem raiseFault_cause (c : FaultCause) (s : State) : (raiseFault c s).cause = (causeCode c) := rfl
@[simp] theorem raiseFault_rxAddr (c : FaultCause) (s : State) : (raiseFault c s).rxAddr = s.rxAddr := rfl
@[simp] theorem raiseFault_rxLen (c : FaultCause) (s : State) : (raiseFault c s).rxLen = s.rxLen := rfl
@[simp] theorem raiseFault_txAddr (c : FaultCause) (s : State) : (raiseFault c s).txAddr = s.txAddr := rfl
@[simp] theorem raiseFault_txLen (c : FaultCause) (s : State) : (raiseFault c s).txLen = s.txLen := rfl
@[simp] theorem raiseFault_phase (c : FaultCause) (s : State) : (raiseFault c s).phase = (.fault) := rfl
@[simp] theorem raiseFault_op (c : FaultCause) (s : State) : (raiseFault c s).op = s.op := rfl
@[simp] theorem raiseFault_word (c : FaultCause) (s : State) : (raiseFault c s).word = s.word := rfl
@[simp] theorem raiseFault_bit (c : FaultCause) (s : State) : (raiseFault c s).bit = s.bit := rfl
@[simp] theorem raiseFault_tx (c : FaultCause) (s : State) : (raiseFault c s).tx = s.tx := rfl
@[simp] theorem raiseFault_rx (c : FaultCause) (s : State) : (raiseFault c s).rx = s.rx := rfl
@[simp] theorem raiseFault_mem (c : FaultCause) (s : State) : (raiseFault c s).mem = s.mem := rfl
@[simp] theorem raiseFault_history (c : FaultCause) (s : State) : (raiseFault c s).history = (.fault c :: s.history) := rfl
@[simp] theorem raiseFault_hostMoves (c : FaultCause) (s : State) : (raiseFault c s).hostMoves = s.hostMoves := rfl
@[simp] theorem raiseFault_hostReads (c : FaultCause) (s : State) : (raiseFault c s).hostReads = s.hostReads := rfl
@[simp] theorem raiseFault_driveScript (c : FaultCause) (s : State) : (raiseFault c s).driveScript = s.driveScript := rfl
@[simp] theorem raiseFault_sampleScript (c : FaultCause) (s : State) : (raiseFault c s).sampleScript = s.sampleScript := rfl
@[simp] theorem raiseFault_draws (c : FaultCause) (s : State) : (raiseFault c s).draws = s.draws := rfl

/-! ### toPhase -/

@[simp] theorem toPhase_params (ph : Phase) (s : State) : (toPhase ph s).params = s.params := rfl
@[simp] theorem toPhase_sck (ph : Phase) (s : State) : (toPhase ph s).sck = s.sck := rfl
@[simp] theorem toPhase_mosi (ph : Phase) (s : State) : (toPhase ph s).mosi = s.mosi := rfl
@[simp] theorem toPhase_sda (ph : Phase) (s : State) : (toPhase ph s).sda = s.sda := rfl
@[simp] theorem toPhase_busy (ph : Phase) (s : State) : (toPhase ph s).busy = s.busy := rfl
@[simp] theorem toPhase_faulted (ph : Phase) (s : State) : (toPhase ph s).faulted = s.faulted := rfl
@[simp] theorem toPhase_cause (ph : Phase) (s : State) : (toPhase ph s).cause = s.cause := rfl
@[simp] theorem toPhase_rxAddr (ph : Phase) (s : State) : (toPhase ph s).rxAddr = s.rxAddr := rfl
@[simp] theorem toPhase_rxLen (ph : Phase) (s : State) : (toPhase ph s).rxLen = s.rxLen := rfl
@[simp] theorem toPhase_txAddr (ph : Phase) (s : State) : (toPhase ph s).txAddr = s.txAddr := rfl
@[simp] theorem toPhase_txLen (ph : Phase) (s : State) : (toPhase ph s).txLen = s.txLen := rfl
@[simp] theorem toPhase_phase (ph : Phase) (s : State) : (toPhase ph s).phase = (ph) := rfl
@[simp] theorem toPhase_op (ph : Phase) (s : State) : (toPhase ph s).op = s.op := rfl
@[simp] theorem toPhase_word (ph : Phase) (s : State) : (toPhase ph s).word = s.word := rfl
@[simp] theorem toPhase_bit (ph : Phase) (s : State) : (toPhase ph s).bit = s.bit := rfl
@[simp] theorem toPhase_tx (ph : Phase) (s : State) : (toPhase ph s).tx = s.tx := rfl
@[simp] theorem toPhase_rx (ph : Phase) (s : State) : (toPhase ph s).rx = s.rx := rfl
@[simp] theorem toPhase_mem (ph : Phase) (s : State) : (toPhase ph s).mem = s.mem := rfl
@[simp] theorem toPhase_history (ph : Phase) (s : State) : (toPhase ph s).history = s.history := rfl
@[simp] theorem toPhase_hostMoves (ph : Phase) (s : State) : (toPhase ph s).hostMoves = s.hostMoves := rfl
@[simp] theorem toPhase_hostReads (ph : Phase) (s : State) : (toPhase ph s).hostReads = s.hostReads := rfl
@[simp] theorem toPhase_driveScript (ph : Phase) (s : State) : (toPhase ph s).driveScript = s.driveScript := rfl
@[simp] theorem toPhase_sampleScript (ph : Phase) (s : State) : (toPhase ph s).sampleScript = s.sampleScript := rfl
@[simp] theorem toPhase_draws (ph : Phase) (s : State) : (toPhase ph s).draws = s.draws := rfl

/-! ### startWord -/

@[simp] theorem startWord_params (s : State) : (startWord s).params = s.params := rfl
@[simp] theorem startWord_sck (s : State) : (startWord s).sck = s.sck := rfl
@[simp] theorem startWord_mosi (s : State) : (startWord s).mosi = s.mosi := rfl
@[simp] theorem startWord_sda (s : State) : (startWord s).sda = s.sda := rfl
@[simp] theorem startWord_busy (s : State) : (startWord s).busy = s.busy := rfl
@[simp] theorem startWord_faulted (s : State) : (startWord s).faulted = s.faulted := rfl
@[simp] theorem startWord_cause (s : State) : (startWord s).cause = s.cause := rfl
@[simp] theorem startWord_rxAddr (s : State) : (startWord s).rxAddr = s.rxAddr := rfl
@[simp] theorem startWord_rxLen (s : State) : (startWord s).rxLen = s.rxLen := rfl
@[simp] theorem startWord_txAddr (s : State) : (startWord s).txAddr = s.txAddr := rfl
@[simp] theorem startWord_txLen (s : State) : (startWord s).txLen = s.txLen := rfl
@[simp] theorem startWord_phase (s : State) : (startWord s).phase = s.phase := rfl
@[simp] theorem startWord_op (s : State) : (startWord s).op = s.op := rfl
@[simp] theorem startWord_word (s : State) : (startWord s).word = s.word := rfl
@[simp] theorem startWord_bit (s : State) : (startWord s).bit = (0) := rfl
@[simp] theorem startWord_tx (s : State) : (startWord s).tx = s.tx := rfl
@[simp] theorem startWord_rx (s : State) : (startWord s).rx = (0#8) := rfl
@[simp] theorem startWord_mem (s : State) : (startWord s).mem = s.mem := rfl
@[simp] theorem startWord_history (s : State) : (startWord s).history = s.history := rfl
@[simp] theorem startWord_hostMoves (s : State) : (startWord s).hostMoves = s.hostMoves := rfl
@[simp] theorem startWord_hostReads (s : State) : (startWord s).hostReads = s.hostReads := rfl
@[simp] theorem startWord_driveScript (s : State) : (startWord s).driveScript = s.driveScript := rfl
@[simp] theorem startWord_sampleScript (s : State) : (startWord s).sampleScript = s.sampleScript := rfl
@[simp] theorem startWord_draws (s : State) : (startWord s).draws = s.draws := rfl

/-! ### endCell -/

@[simp] theorem endCell_params (s : State) : (endCell s).params = s.params := rfl
@[simp] theorem endCell_sck (s : State) : (endCell s).sck = s.sck := rfl
@[simp] theorem endCell_mosi (s : State) : (endCell s).mosi = s.mosi := rfl
@[simp] theorem endCell_sda (s : State) : (endCell s).sda = s.sda := rfl
@[simp] theorem endCell_busy (s : State) : (endCell s).busy = s.busy := rfl
@[simp] theorem endCell_faulted (s : State) : (endCell s).faulted = s.faulted := rfl
@[simp] theorem endCell_cause (s : State) : (endCell s).cause = s.cause := rfl
@[simp] theorem endCell_rxAddr (s : State) : (endCell s).rxAddr = s.rxAddr := rfl
@[simp] theorem endCell_rxLen (s : State) : (endCell s).rxLen = s.rxLen := rfl
@[simp] theorem endCell_txAddr (s : State) : (endCell s).txAddr = s.txAddr := rfl
@[simp] theorem endCell_txLen (s : State) : (endCell s).txLen = s.txLen := rfl
@[simp] theorem endCell_phase (s : State) : (endCell s).phase = s.phase := rfl
@[simp] theorem endCell_op (s : State) : (endCell s).op = s.op := rfl
@[simp] theorem endCell_word (s : State) : (endCell s).word = s.word := rfl
@[simp] theorem endCell_bit (s : State) : (endCell s).bit = (s.bit + 1) := rfl
@[simp] theorem endCell_tx (s : State) : (endCell s).tx = s.tx := rfl
@[simp] theorem endCell_rx (s : State) : (endCell s).rx = s.rx := rfl
@[simp] theorem endCell_mem (s : State) : (endCell s).mem = s.mem := rfl
@[simp] theorem endCell_history (s : State) : (endCell s).history = s.history := rfl
@[simp] theorem endCell_hostMoves (s : State) : (endCell s).hostMoves = s.hostMoves := rfl
@[simp] theorem endCell_hostReads (s : State) : (endCell s).hostReads = s.hostReads := rfl
@[simp] theorem endCell_driveScript (s : State) : (endCell s).driveScript = s.driveScript := rfl
@[simp] theorem endCell_sampleScript (s : State) : (endCell s).sampleScript = s.sampleScript := rfl
@[simp] theorem endCell_draws (s : State) : (endCell s).draws = s.draws := rfl

/-! ### endWord -/

@[simp] theorem endWord_params (s : State) : (endWord s).params = s.params := rfl
@[simp] theorem endWord_sck (s : State) : (endWord s).sck = s.sck := rfl
@[simp] theorem endWord_mosi (s : State) : (endWord s).mosi = s.mosi := rfl
@[simp] theorem endWord_sda (s : State) : (endWord s).sda = s.sda := rfl
@[simp] theorem endWord_busy (s : State) : (endWord s).busy = s.busy := rfl
@[simp] theorem endWord_faulted (s : State) : (endWord s).faulted = s.faulted := rfl
@[simp] theorem endWord_cause (s : State) : (endWord s).cause = s.cause := rfl
@[simp] theorem endWord_rxAddr (s : State) : (endWord s).rxAddr = s.rxAddr := rfl
@[simp] theorem endWord_rxLen (s : State) : (endWord s).rxLen = s.rxLen := rfl
@[simp] theorem endWord_txAddr (s : State) : (endWord s).txAddr = s.txAddr := rfl
@[simp] theorem endWord_txLen (s : State) : (endWord s).txLen = s.txLen := rfl
@[simp] theorem endWord_phase (s : State) : (endWord s).phase = s.phase := rfl
@[simp] theorem endWord_op (s : State) : (endWord s).op = s.op := rfl
@[simp] theorem endWord_word (s : State) : (endWord s).word = (s.word + 1) := rfl
@[simp] theorem endWord_bit (s : State) : (endWord s).bit = s.bit := rfl
@[simp] theorem endWord_tx (s : State) : (endWord s).tx = s.tx := rfl
@[simp] theorem endWord_rx (s : State) : (endWord s).rx = s.rx := rfl
@[simp] theorem endWord_mem (s : State) : (endWord s).mem = s.mem := rfl
@[simp] theorem endWord_history (s : State) : (endWord s).history = s.history := rfl
@[simp] theorem endWord_hostMoves (s : State) : (endWord s).hostMoves = s.hostMoves := rfl
@[simp] theorem endWord_hostReads (s : State) : (endWord s).hostReads = s.hostReads := rfl
@[simp] theorem endWord_driveScript (s : State) : (endWord s).driveScript = s.driveScript := rfl
@[simp] theorem endWord_sampleScript (s : State) : (endWord s).sampleScript = s.sampleScript := rfl
@[simp] theorem endWord_draws (s : State) : (endWord s).draws = s.draws := rfl

/-! ### accepted -/

@[simp] theorem accepted_params (k : Instr) (s : State) : (accepted k s).params = s.params := rfl
@[simp] theorem accepted_sck (k : Instr) (s : State) : (accepted k s).sck = s.sck := rfl
@[simp] theorem accepted_mosi (k : Instr) (s : State) : (accepted k s).mosi = s.mosi := rfl
@[simp] theorem accepted_sda (k : Instr) (s : State) : (accepted k s).sda = s.sda := rfl
@[simp] theorem accepted_busy (k : Instr) (s : State) : (accepted k s).busy = (true) := rfl
@[simp] theorem accepted_faulted (k : Instr) (s : State) : (accepted k s).faulted = s.faulted := rfl
@[simp] theorem accepted_cause (k : Instr) (s : State) : (accepted k s).cause = s.cause := rfl
@[simp] theorem accepted_rxAddr (k : Instr) (s : State) : (accepted k s).rxAddr = s.rxAddr := rfl
@[simp] theorem accepted_rxLen (k : Instr) (s : State) : (accepted k s).rxLen = s.rxLen := rfl
@[simp] theorem accepted_txAddr (k : Instr) (s : State) : (accepted k s).txAddr = s.txAddr := rfl
@[simp] theorem accepted_txLen (k : Instr) (s : State) : (accepted k s).txLen = s.txLen := rfl
@[simp] theorem accepted_phase (k : Instr) (s : State) : (accepted k s).phase = s.phase := rfl
@[simp] theorem accepted_op (k : Instr) (s : State) : (accepted k s).op = (k.opcode) := rfl
@[simp] theorem accepted_word (k : Instr) (s : State) : (accepted k s).word = (0) := rfl
@[simp] theorem accepted_bit (k : Instr) (s : State) : (accepted k s).bit = (0) := rfl
@[simp] theorem accepted_tx (k : Instr) (s : State) : (accepted k s).tx = s.tx := rfl
@[simp] theorem accepted_rx (k : Instr) (s : State) : (accepted k s).rx = s.rx := rfl
@[simp] theorem accepted_mem (k : Instr) (s : State) : (accepted k s).mem = s.mem := rfl
@[simp] theorem accepted_history (k : Instr) (s : State) : (accepted k s).history = s.history := rfl
@[simp] theorem accepted_hostMoves (k : Instr) (s : State) : (accepted k s).hostMoves = s.hostMoves := rfl
@[simp] theorem accepted_hostReads (k : Instr) (s : State) : (accepted k s).hostReads = s.hostReads := rfl
@[simp] theorem accepted_driveScript (k : Instr) (s : State) : (accepted k s).driveScript = s.driveScript := rfl
@[simp] theorem accepted_sampleScript (k : Instr) (s : State) : (accepted k s).sampleScript = s.sampleScript := rfl
@[simp] theorem accepted_draws (k : Instr) (s : State) : (accepted k s).draws = s.draws := rfl

end Sys2Proof.Machine
end

