-- ==== Sys2Proof/Laws/Operands.lean ====
section
/-! SUPPORT. No step of a command changes an operand: the length, the source base, the refusal and the length check read the same
after every update. -/

namespace Sys2Proof.Machine

/-- The operands of a command are the parameters and the four operand registers, nothing else (R75). -/
theorem operands_congr {k : Instr} {s t : State} (hp : t.params = s.params) (h1 : t.rxAddr = s.rxAddr)
    (h2 : t.rxLen = s.rxLen) (h3 : t.txAddr = s.txAddr) (h4 : t.txLen = s.txLen) :
    lengthOf k t = lengthOf k s ∧ srcOf k t = srcOf k s ∧ refusalOf k t = refusalOf k s ∧
      lengthsAgree k t = lengthsAgree k s := by
  refine ⟨?_, ?_, ?_, ?_⟩
  · cases k <;> simp [lengthOf, *]
  · cases k <;> simp [srcOf, *]
  · simp [refusalOf, outside, *]
  · simp [lengthsAgree, *]

/-! ### drive -/

@[simp] theorem lengthOf_drive (k : Instr) (p : Pin) (v : Level) (s : State) : lengthOf k (drive p v s) = lengthOf k s := (operands_congr rfl rfl rfl rfl rfl).1
@[simp] theorem srcOf_drive (k : Instr) (p : Pin) (v : Level) (s : State) : srcOf k (drive p v s) = srcOf k s := (operands_congr rfl rfl rfl rfl rfl).2.1
@[simp] theorem refusalOf_drive (k : Instr) (p : Pin) (v : Level) (s : State) : refusalOf k (drive p v s) = refusalOf k s := (operands_congr rfl rfl rfl rfl rfl).2.2.1
@[simp] theorem lengthsAgree_drive (k : Instr) (p : Pin) (v : Level) (s : State) : lengthsAgree k (drive p v s) = lengthsAgree k s := (operands_congr rfl rfl rfl rfl rfl).2.2.2

/-! ### sampleShift -/

@[simp] theorem lengthOf_sampleShift (k : Instr) (p : Pin) (s : State) : lengthOf k (sampleShift p s) = lengthOf k s := (operands_congr rfl rfl rfl rfl rfl).1
@[simp] theorem srcOf_sampleShift (k : Instr) (p : Pin) (s : State) : srcOf k (sampleShift p s) = srcOf k s := (operands_congr rfl rfl rfl rfl rfl).2.1
@[simp] theorem refusalOf_sampleShift (k : Instr) (p : Pin) (s : State) : refusalOf k (sampleShift p s) = refusalOf k s := (operands_congr rfl rfl rfl rfl rfl).2.2.1
@[simp] theorem lengthsAgree_sampleShift (k : Instr) (p : Pin) (s : State) : lengthsAgree k (sampleShift p s) = lengthsAgree k s := (operands_congr rfl rfl rfl rfl rfl).2.2.2

/-! ### loadTx -/

@[simp] theorem lengthOf_loadTx (k : Instr) (a : Nat) (s : State) : lengthOf k (loadTx a s) = lengthOf k s := (operands_congr rfl rfl rfl rfl rfl).1
@[simp] theorem srcOf_loadTx (k : Instr) (a : Nat) (s : State) : srcOf k (loadTx a s) = srcOf k s := (operands_congr rfl rfl rfl rfl rfl).2.1
@[simp] theorem refusalOf_loadTx (k : Instr) (a : Nat) (s : State) : refusalOf k (loadTx a s) = refusalOf k s := (operands_congr rfl rfl rfl rfl rfl).2.2.1
@[simp] theorem lengthsAgree_loadTx (k : Instr) (a : Nat) (s : State) : lengthsAgree k (loadTx a s) = lengthsAgree k s := (operands_congr rfl rfl rfl rfl rfl).2.2.2

/-! ### storeRx -/

@[simp] theorem lengthOf_storeRx (k : Instr) (a : Nat) (s : State) : lengthOf k (storeRx a s) = lengthOf k s := (operands_congr rfl rfl rfl rfl rfl).1
@[simp] theorem srcOf_storeRx (k : Instr) (a : Nat) (s : State) : srcOf k (storeRx a s) = srcOf k s := (operands_congr rfl rfl rfl rfl rfl).2.1
@[simp] theorem refusalOf_storeRx (k : Instr) (a : Nat) (s : State) : refusalOf k (storeRx a s) = refusalOf k s := (operands_congr rfl rfl rfl rfl rfl).2.2.1
@[simp] theorem lengthsAgree_storeRx (k : Instr) (a : Nat) (s : State) : lengthsAgree k (storeRx a s) = lengthsAgree k s := (operands_congr rfl rfl rfl rfl rfl).2.2.2

/-! ### completeCommand -/

@[simp] theorem lengthOf_completeCommand (k : Instr) (s : State) : lengthOf k (completeCommand s) = lengthOf k s := (operands_congr rfl rfl rfl rfl rfl).1
@[simp] theorem srcOf_completeCommand (k : Instr) (s : State) : srcOf k (completeCommand s) = srcOf k s := (operands_congr rfl rfl rfl rfl rfl).2.1
@[simp] theorem refusalOf_completeCommand (k : Instr) (s : State) : refusalOf k (completeCommand s) = refusalOf k s := (operands_congr rfl rfl rfl rfl rfl).2.2.1
@[simp] theorem lengthsAgree_completeCommand (k : Instr) (s : State) : lengthsAgree k (completeCommand s) = lengthsAgree k s := (operands_congr rfl rfl rfl rfl rfl).2.2.2

/-! ### toPhase -/

@[simp] theorem lengthOf_toPhase (k : Instr) (ph : Phase) (s : State) : lengthOf k (toPhase ph s) = lengthOf k s := (operands_congr rfl rfl rfl rfl rfl).1
@[simp] theorem srcOf_toPhase (k : Instr) (ph : Phase) (s : State) : srcOf k (toPhase ph s) = srcOf k s := (operands_congr rfl rfl rfl rfl rfl).2.1
@[simp] theorem refusalOf_toPhase (k : Instr) (ph : Phase) (s : State) : refusalOf k (toPhase ph s) = refusalOf k s := (operands_congr rfl rfl rfl rfl rfl).2.2.1
@[simp] theorem lengthsAgree_toPhase (k : Instr) (ph : Phase) (s : State) : lengthsAgree k (toPhase ph s) = lengthsAgree k s := (operands_congr rfl rfl rfl rfl rfl).2.2.2

/-! ### startWord -/

@[simp] theorem lengthOf_startWord (k : Instr) (s : State) : lengthOf k (startWord s) = lengthOf k s := (operands_congr rfl rfl rfl rfl rfl).1
@[simp] theorem srcOf_startWord (k : Instr) (s : State) : srcOf k (startWord s) = srcOf k s := (operands_congr rfl rfl rfl rfl rfl).2.1
@[simp] theorem refusalOf_startWord (k : Instr) (s : State) : refusalOf k (startWord s) = refusalOf k s := (operands_congr rfl rfl rfl rfl rfl).2.2.1
@[simp] theorem lengthsAgree_startWord (k : Instr) (s : State) : lengthsAgree k (startWord s) = lengthsAgree k s := (operands_congr rfl rfl rfl rfl rfl).2.2.2

/-! ### endCell -/

@[simp] theorem lengthOf_endCell (k : Instr) (s : State) : lengthOf k (endCell s) = lengthOf k s := (operands_congr rfl rfl rfl rfl rfl).1
@[simp] theorem srcOf_endCell (k : Instr) (s : State) : srcOf k (endCell s) = srcOf k s := (operands_congr rfl rfl rfl rfl rfl).2.1
@[simp] theorem refusalOf_endCell (k : Instr) (s : State) : refusalOf k (endCell s) = refusalOf k s := (operands_congr rfl rfl rfl rfl rfl).2.2.1
@[simp] theorem lengthsAgree_endCell (k : Instr) (s : State) : lengthsAgree k (endCell s) = lengthsAgree k s := (operands_congr rfl rfl rfl rfl rfl).2.2.2

/-! ### endWord -/

@[simp] theorem lengthOf_endWord (k : Instr) (s : State) : lengthOf k (endWord s) = lengthOf k s := (operands_congr rfl rfl rfl rfl rfl).1
@[simp] theorem srcOf_endWord (k : Instr) (s : State) : srcOf k (endWord s) = srcOf k s := (operands_congr rfl rfl rfl rfl rfl).2.1
@[simp] theorem refusalOf_endWord (k : Instr) (s : State) : refusalOf k (endWord s) = refusalOf k s := (operands_congr rfl rfl rfl rfl rfl).2.2.1
@[simp] theorem lengthsAgree_endWord (k : Instr) (s : State) : lengthsAgree k (endWord s) = lengthsAgree k s := (operands_congr rfl rfl rfl rfl rfl).2.2.2

/-! ### accepted -/

@[simp] theorem lengthOf_accepted (k : Instr) (j : Instr) (s : State) : lengthOf k (accepted j s) = lengthOf k s := (operands_congr rfl rfl rfl rfl rfl).1
@[simp] theorem srcOf_accepted (k : Instr) (j : Instr) (s : State) : srcOf k (accepted j s) = srcOf k s := (operands_congr rfl rfl rfl rfl rfl).2.1
@[simp] theorem refusalOf_accepted (k : Instr) (j : Instr) (s : State) : refusalOf k (accepted j s) = refusalOf k s := (operands_congr rfl rfl rfl rfl rfl).2.2.1
@[simp] theorem lengthsAgree_accepted (k : Instr) (j : Instr) (s : State) : lengthsAgree k (accepted j s) = lengthsAgree k s := (operands_congr rfl rfl rfl rfl rfl).2.2.2

/-! ### An update of the phase commutes with every other update of a command -/

@[simp] theorem toPhase_toPhase (a b : Phase) (s : State) : toPhase a (toPhase b s) = toPhase a s := rfl
@[simp] theorem drive_toPhase (p : Pin) (v : Level) (a : Phase) (s : State) :
    drive p v (toPhase a s) = toPhase a (drive p v s) := rfl
@[simp] theorem sampleShift_toPhase (p : Pin) (a : Phase) (s : State) :
    sampleShift p (toPhase a s) = toPhase a (sampleShift p s) := rfl
@[simp] theorem loadTx_toPhase (n : Nat) (a : Phase) (s : State) : loadTx n (toPhase a s) = toPhase a (loadTx n s) := rfl
@[simp] theorem storeRx_toPhase (n : Nat) (a : Phase) (s : State) : storeRx n (toPhase a s) = toPhase a (storeRx n s) := rfl
@[simp] theorem startWord_toPhase (a : Phase) (s : State) : startWord (toPhase a s) = toPhase a (startWord s) := rfl
@[simp] theorem endCell_toPhase (a : Phase) (s : State) : endCell (toPhase a s) = toPhase a (endCell s) := rfl
@[simp] theorem endWord_toPhase (a : Phase) (s : State) : endWord (toPhase a s) = toPhase a (endWord s) := rfl

end Sys2Proof.Machine
end

