-- ==== Sys2Proof/Laws/Ops.lean ====
section
/-! SUPPORT. What the shared operations and the meanings can do, said once: `StepOf` is R99 as a relation, and
`exec_next_iff` says that a meaning answers a next state exactly by one of its rules. -/

namespace Sys2Proof.Machine

/-- R99, one rule per line of its pseudocode, for the operation `k`. -/
inductive StepOf (k : Instr) (s : State) : State → Prop where
  | mismatch (hp : s.phase = .idle) (hl : lengthsAgree k s = false) : StepOf k s (raiseFault .lenMismatch s)
  | accept (hp : s.phase = .idle) (hl : lengthsAgree k s = true) (hr : refusalOf k s = none) :
      StepOf k s (toPhase (firstPhase k) (accepted k s))
  | prep (hp : s.phase = .prep) (hk : k = .hdRead) : StepOf k s (toPhase .load (drive .sda Level.high s))
  | loadEnd (hp : s.phase = .load) (hk : movesData k = true) (hw : s.word = lengthOf k s) :
      StepOf k s (toPhase .done s)
  | loadRx (hp : s.phase = .load) (hr : receives k = true) (ht : transmits k = false) (hw : s.word ≠ lengthOf k s) :
      StepOf k s (toPhase .clkLow (startWord s))
  | loadTx (hp : s.phase = .load) (ht : transmits k = true) (hw : s.word ≠ lengthOf k s)
      (ha : s.hasAddress (srcOf k s + s.word) = true) :
      StepOf k s (toPhase .drive (loadTx (srcOf k s + s.word) (startWord s)))
  | drive (hp : s.phase = .drive) (ht : transmits k = true) :
      StepOf k s (toPhase .clkLow (drive (dout k) (outBit s.tx s.bit) s))
  | clkLow (hp : s.phase = .clkLow) (hk : movesData k = true) :
      StepOf k s (toPhase .clkHigh (Machine.drive .sck Level.low s))
  | clkHighRx (hp : s.phase = .clkHigh) (hr : receives k = true) :
      StepOf k s (toPhase .sample (Machine.drive .sck Level.high s))
  | clkHighCell (hp : s.phase = .clkHigh) (ht : transmits k = true) (hr : receives k = false) (hb : s.bit + 1 < 8) :
      StepOf k s (toPhase .drive (endCell (Machine.drive .sck Level.high s)))
  | clkHighWord (hp : s.phase = .clkHigh) (ht : transmits k = true) (hr : receives k = false) (hb : ¬ s.bit + 1 < 8) :
      StepOf k s (toPhase .load (endWord (endCell (Machine.drive .sck Level.high s))))
  | sampleCell (hp : s.phase = .sample) (hr : receives k = true) (hb : s.bit + 1 < 8) :
      StepOf k s (toPhase (if transmits k then .drive else .clkLow) (endCell (sampleShift (din k) s)))
  | sampleWord (hp : s.phase = .sample) (hr : receives k = true) (hb : ¬ s.bit + 1 < 8) :
      StepOf k s (toPhase .store (endCell (sampleShift (din k) s)))
  | store (hp : s.phase = .store) (hr : receives k = true) (ha : s.hasAddress (s.rxAddr + s.word) = true) :
      StepOf k s (toPhase .load (endWord (storeRx (s.rxAddr + s.word) s)))
  | done (hp : s.phase = .done) : StepOf k s (completeCommand s)

theorem accept_next_iff {k : Instr} {ph : Phase} {s t : State} :
    accept k ph s = .next t ↔ refusalOf k s = none ∧ t = toPhase ph (accepted k s) := by
  unfold accept
  cases h : refusalOf k s <;> simp [eq_comm]

theorem stepLoad_next_iff {n : Nat} {s t : State} :
    stepLoad n s = .next t ↔
      (s.word = n ∧ t = toPhase .done s) ∨ (s.word ≠ n ∧ t = toPhase .clkLow (startWord s)) := by
  unfold stepLoad
  split <;> simp_all [eq_comm]

theorem stepLoadTx_next_iff {n b : Nat} {s t : State} :
    stepLoadTx n b s = .next t ↔
      (s.word = n ∧ t = toPhase .done s) ∨
      (s.word ≠ n ∧ s.hasAddress (b + s.word) = true ∧
        t = toPhase .drive (loadTx (b + s.word) (startWord s))) := by
  unfold stepLoadTx
  split
  · next h => exact ⟨fun e => .inl ⟨h, by cases e; rfl⟩, by rintro (⟨-, rfl⟩ | ⟨h', -⟩) <;> first | rfl | exact absurd h h'⟩
  · next h =>
    split
    · next ha =>
      exact ⟨fun e => .inr ⟨h, ha, by cases e; rfl⟩, by rintro (⟨h', -⟩ | ⟨-, -, rfl⟩) <;> first | rfl | exact absurd h' h⟩
    · next ha =>
      exact ⟨by simp, by rintro (⟨h', -⟩ | ⟨-, ha', -⟩) <;> first | exact absurd h' h | exact absurd ha' ha⟩

theorem stepClkHighTx_next_iff {s t : State} :
    stepClkHighTx s = .next t ↔
      (s.bit + 1 < 8 ∧ t = toPhase .drive (endCell (drive .sck Level.high s))) ∨
      (¬ s.bit + 1 < 8 ∧ t = toPhase .load (endWord (endCell (drive .sck Level.high s)))) := by
  unfold stepClkHighTx
  split <;> simp_all [eq_comm]

theorem stepSample_next_iff {p : Pin} {ph : Phase} {s t : State} :
    stepSample p ph s = .next t ↔
      (s.bit + 1 < 8 ∧ t = toPhase ph (endCell (sampleShift p s))) ∨
      (¬ s.bit + 1 < 8 ∧ t = toPhase .store (endCell (sampleShift p s))) := by
  unfold stepSample
  by_cases h : s.bit + 1 < 8 <;> simp [h, eq_comm]

theorem stepStore_next_iff {s t : State} :
    stepStore s = .next t ↔
      s.hasAddress (s.rxAddr + s.word) = true ∧
        t = toPhase .load (endWord (storeRx (s.rxAddr + s.word) s)) := by
  unfold stepStore
  split
  · next ha => exact ⟨fun e => ⟨ha, by cases e; rfl⟩, by rintro ⟨-, rfl⟩; rfl⟩
  · next ha => exact ⟨by simp, fun h => absurd h.1 ha⟩

/-- Every meaning follows R99 and nothing else. -/
theorem StepOf.of_exec {k : Instr} {s t : State} (h : exec k s = .next t) : StepOf k s t := by
  cases k <;>
    simp only [exec, execFdRead, execFdWrite, execFdTransfer, execFdTransferInPlace, execFdFlush, execHdRead, execHdWrite,
      execHdTransfer, execHdTransferInPlace, execHdFlush] at h <;>
    split at h <;> try split at h
  all_goals
    simp only [accept_next_iff, stepLoad_next_iff, stepLoadTx_next_iff, stepClkHighTx_next_iff, stepSample_next_iff,
      stepStore_next_iff, stepPrep, stepDrive, stepClkLow, stepClkHighRx, stepDone, noStep, noStepInFault,
      Host.Outcome.next.injEq, reduceCtorEq] at h
  all_goals first
    | (obtain ⟨hr, rfl⟩ := h; exact .accept (by assumption) (by simp_all [lengthsAgree]) hr)
    | (subst h; exact .mismatch (by assumption) (by simp_all [lengthsAgree]))
    | (subst h; exact .prep (by assumption) rfl)
    | (subst h; exact .drive (by assumption) rfl)
    | (subst h; exact .clkLow (by assumption) rfl)
    | (subst h; exact .clkHighRx (by assumption) rfl)
    | (subst h; exact .done (by assumption))
    | (obtain ⟨ha, rfl⟩ := h; exact .store (by assumption) rfl ha)
    | (obtain ⟨hw, rfl⟩ | ⟨hw, rfl⟩ := h
       · exact .loadEnd (by assumption) rfl hw
       · exact .loadRx (by assumption) rfl rfl hw)
    | (obtain ⟨hw, rfl⟩ | ⟨hw, ha, rfl⟩ := h
       · exact .loadEnd (by assumption) rfl hw
       · exact .loadTx (by assumption) rfl hw ha)
    | (obtain ⟨hb, rfl⟩ | ⟨hb, rfl⟩ := h
       · exact .clkHighCell (by assumption) rfl rfl hb
       · exact .clkHighWord (by assumption) rfl rfl hb)
    | (obtain ⟨hb, rfl⟩ | ⟨hb, rfl⟩ := h
       · exact .sampleCell (by assumption) rfl hb
       · exact .sampleWord (by assumption) rfl hb)

/-- And every rule of R99 is a step of the meaning. -/
theorem StepOf.exec_eq {k : Instr} {s t : State} (h : StepOf k s t) : exec k s = .next t := by
  cases h <;> cases k <;>
    first
    | (exfalso; simp_all [transmits, receives, movesData, lengthsAgree]; done)
    | (simp_all only [exec, execFdRead, execFdWrite, execFdTransfer, execFdTransferInPlace, execFdFlush, execHdRead,
        execHdWrite, execHdTransfer, execHdTransferInPlace, execHdFlush, accept_next_iff, stepLoad_next_iff,
        stepLoadTx_next_iff, stepClkHighTx_next_iff, stepSample_next_iff, stepStore_next_iff, stepPrep, stepDrive,
        stepClkLow, stepClkHighRx, stepDone, lengthsAgree, firstPhase, lengthOf, srcOf, dout, din, transmits]
       <;> simp_all [Instr.variant, accept_next_iff])

/-- What a meaning can do, in one sentence: it answers a next state exactly by a rule of R99. -/
theorem exec_next_iff {k : Instr} {s t : State} : exec k s = .next t ↔ StepOf k s t :=
  ⟨StepOf.of_exec, StepOf.exec_eq⟩

end Sys2Proof.Machine
end

