-- ==== Sys2Proof/Laws/PerInstr.lean ====
section
/-! SUPPORT. Statements about each operation as syntax, one lemma per constructor. -/

namespace Sys2Proof.Laws.Encoding

/-- The key of an operation decodes to it, holds its variant and its CMD byte, and the operation is well formed for an engine of
its own variant and of no other (R73, R74, R79). -/
def Statement (i : Instr) : Prop :=
  decodeKey (encode i) = .op i ∧ variantOfBit ((encode i).getLsbD 8) = i.variant ∧ (encode i).extractLsb' 0 8 = i.cmd ∧
    decodeTableWord 16 (encode i).toNat = some i ∧ ∀ v, i.wf v = true ↔ v = i.variant

theorem fdRead : Statement .fdRead := ⟨by decide, by decide, by decide, by decide, by intro v; cases v <;> decide⟩
theorem fdWrite : Statement .fdWrite := ⟨by decide, by decide, by decide, by decide, by intro v; cases v <;> decide⟩
theorem fdTransfer : Statement .fdTransfer := ⟨by decide, by decide, by decide, by decide, by intro v; cases v <;> decide⟩
theorem fdTransferInPlace : Statement .fdTransferInPlace :=
  ⟨by decide, by decide, by decide, by decide, by intro v; cases v <;> decide⟩
theorem fdFlush : Statement .fdFlush := ⟨by decide, by decide, by decide, by decide, by intro v; cases v <;> decide⟩
theorem hdRead : Statement .hdRead := ⟨by decide, by decide, by decide, by decide, by intro v; cases v <;> decide⟩
theorem hdWrite : Statement .hdWrite := ⟨by decide, by decide, by decide, by decide, by intro v; cases v <;> decide⟩
theorem hdTransfer : Statement .hdTransfer := ⟨by decide, by decide, by decide, by decide, by intro v; cases v <;> decide⟩
theorem hdTransferInPlace : Statement .hdTransferInPlace :=
  ⟨by decide, by decide, by decide, by decide, by intro v; cases v <;> decide⟩
theorem hdFlush : Statement .hdFlush := ⟨by decide, by decide, by decide, by decide, by intro v; cases v <;> decide⟩

end Sys2Proof.Laws.Encoding
end

