-- ==== Sys2Proof/Laws/Run.lean ====
section
/-! SUPPORT. Running steps of one command: what `latched` reads, that a step in progress is a rule of R99, how runs compose, and
what the loops of R104 leave unchanged. -/

namespace Sys2Proof.Machine

/-- The engine is the variant of `k` and has `k` latched. -/
structure OnCommand (k : Instr) (s : State) : Prop where
  variant_eq : s.params.variant = k.variant
  op_eq      : s.op = k.opcode

/-- The latch holds what was accepted (R40). -/
theorem latched_of_onCommand {k : Instr} {s : State} (h : OnCommand k s) : latched s = .op k := by
  unfold latched
  rw [h.variant_eq, h.op_eq]
  cases k <;> decide

/-- A key decodes only to an operation of its own variant (R73, R79). -/
theorem variant_of_decode {v : Variant} {c : Word} {i : Instr} (h : decodeKey (keyOf v c) = .op i) : i.variant = v := by
  revert h; revert c
  cases i <;> cases v <;> decide

/-- While a command is in progress, each rule of R99 is a step of the machine. -/
theorem step_of_stepOf {k : Instr} {s t : State} (h : OnCommand k s) (hi : s.phase ≠ .idle) (hf : s.phase ≠ .fault)
    (e : StepOf k s t) : step s = .next t := by
  have busy : step s = busyStep s := by
    unfold step
    cases hp : s.phase <;> simp_all
  rw [busy, busyStep, latched_of_onCommand h]
  exact e.exec_eq

/-- A run that answers a state goes on from that state. -/
theorem run_add_of_next {m n : Nat} {s t : State} (h : run m s = .next t) : run (m + n) s = run n t := by
  induction m generalizing s with
  | zero =>
    cases h
    simp
  | succ m ih =>
    rw [Nat.add_right_comm, run]
    rw [run] at h
    cases hs : step s <;> simp_all

/-- What a bit cell leaves unchanged (R92). -/
theorem bitCell_frame (k : Instr) (s : State) :
    (bitCell k s).bit = s.bit + 1 ∧ (bitCell k s).word = s.word ∧ (bitCell k s).params = s.params ∧
      (bitCell k s).op = s.op ∧ (bitCell k s).rxAddr = s.rxAddr ∧ (bitCell k s).rxLen = s.rxLen ∧
      (bitCell k s).txAddr = s.txAddr ∧ (bitCell k s).txLen = s.txLen ∧ (bitCell k s).mem = s.mem ∧
      (bitCell k s).tx = s.tx := by
  unfold bitCell
  split <;> split <;> simp

/-- What `n` bit cells leave unchanged. -/
theorem bitCells_frame (k : Instr) (n : Nat) (s : State) :
    (bitCells k n s).bit = s.bit + n ∧ (bitCells k n s).word = s.word ∧ (bitCells k n s).params = s.params ∧
      (bitCells k n s).op = s.op ∧ (bitCells k n s).rxAddr = s.rxAddr ∧ (bitCells k n s).rxLen = s.rxLen ∧
      (bitCells k n s).txAddr = s.txAddr ∧ (bitCells k n s).txLen = s.txLen ∧ (bitCells k n s).mem = s.mem ∧
      (bitCells k n s).tx = s.tx := by
  induction n generalizing s with
  | zero => simp [bitCells]
  | succ n ih =>
    have rest := ih (bitCell k s)
    have first := bitCell_frame k s
    simp only [bitCells]
    simp_all
    omega

/-- What a word leaves unchanged (R102, R103). -/
theorem wordLoop_frame (k : Instr) (s : State) :
    (wordLoop k s).word = s.word + 1 ∧ (wordLoop k s).params = s.params ∧ (wordLoop k s).op = s.op ∧
      (wordLoop k s).rxAddr = s.rxAddr ∧ (wordLoop k s).rxLen = s.rxLen ∧ (wordLoop k s).txAddr = s.txAddr ∧
      (wordLoop k s).txLen = s.txLen := by
  unfold wordLoop
  split <;> split <;> simp [bitCells_frame]

end Sys2Proof.Machine
end

