-- ==== Sys2Proof/Tests/Slice0.lean ====
section
/-! SUPPORT. The model's own tests: ill-formed terms refused, keys written bit by bit, one-step tests whose expected
values are those of 95_test_vectors.md (V1 to V44) or of the rule named, and a witness for the hypotheses of each statement. -/

namespace Sys2Proof.Tests
open Sys2Proof Sys2Proof.Machine

/-! ### Small states -/

/-- An engine of variant `v` after reset, with 8-bit registers and a pin layer that does not fail. -/
def eng (v : Variant) : State := State.construct { variant := v, addrW := 8, lenW := 8, pinErrors := false }

/-- An engine whose pin layer may fail. -/
def engErr (v : Variant) : State := { eng v with params := { variant := v, addrW := 8, lenW := 8, pinErrors := true } }

/-- The engine of operation `k` in phase `ph` of a one-word command, with [0x00] = 0xF0 and [0x08] = 0x3C. -/
def mid (k : Instr) (ph : Phase) : State :=
  { eng k.variant with
    op := k.opcode, busy := true, phase := ph, rxAddr := 0x00, rxLen := 1, txAddr := 0x08, txLen := 1,
    tx := 0xA5#8, rx := 0x59#8, mem := [(0x00, 0xF0#8), (0x08, 0x3C#8)] }

/-- The same engine, in IDLE with nothing latched. -/
def idle (k : Instr) : State := { mid k .idle with busy := false, op := 0#3 }

/-- An engine in FAULT, as an illegal command leaves it (V32). -/
def faulted (v : Variant) : State := { eng v with phase := .fault, faulted := true, cause := 2#8 }

/-- A state with the host's moves given. -/
def told (ms : List HostMove) (s : State) : State := { s with hostMoves := ms }

/-- What one looks at in the next state, if there is one. -/
def seen {α : Type} (f : State → α) : Out → Option α
  | .next t => some (f t)
  | .fault _ => none
  | .refused _ => none

/-! ### Ill-formed terms are refused -/

theorem test_wf_no_address_width : Params.wf { variant := .fd, addrW := 0, lenW := 8, pinErrors := true } = false := by decide
theorem test_wf_no_length_width : Params.wf { variant := .hd, addrW := 8, lenW := 0, pinErrors := true } = false := by decide
theorem test_wf_other_variant : Instr.wf .fd .hdRead = false ∧ Instr.wf .hd .fdFlush = false := by decide
theorem test_wf_asm_address : AsmLine.wf (eng .fd).params (.read 256 1) = false := by decide
theorem test_wf_asm_length : AsmLine.wf (eng .fd).params (.transfer 0 1 8 256) = false := by decide
theorem test_wf_memory_order : Memory.wf [(3, 0#8), (3, 1#8)] = false := by decide

/-! ### Decoding: the keys of R73, {VARIANT, RSVD, OP}, and the illegal keys of V6 -/

theorem test_decode_fd_read : decodeKey 0b0_00000_001#9 = .op .fdRead := by decide
theorem test_decode_fd_write : decodeKey 0b0_00000_010#9 = .op .fdWrite := by decide
theorem test_decode_fd_transfer : decodeKey 0b0_00000_011#9 = .op .fdTransfer := by decide
theorem test_decode_fd_transfer_in_place : decodeKey 0b0_00000_100#9 = .op .fdTransferInPlace := by decide
theorem test_decode_fd_flush : decodeKey 0b0_00000_101#9 = .op .fdFlush := by decide
theorem test_decode_hd_read : decodeKey 0b1_00000_001#9 = .op .hdRead := by decide
theorem test_decode_hd_write : decodeKey 0b1_00000_010#9 = .op .hdWrite := by decide
theorem test_decode_hd_transfer : decodeKey 0b1_00000_011#9 = .op .hdTransfer := by decide
theorem test_decode_hd_transfer_in_place : decodeKey 0b1_00000_100#9 = .op .hdTransferInPlace := by decide
theorem test_decode_hd_flush : decodeKey 0b1_00000_101#9 = .op .hdFlush := by decide

theorem test_decode_illegal :
    ∀ key ∈ [0x000#9, 0x006#9, 0x007#9, 0x009#9, 0x081#9, 0x0FF#9, 0x100#9, 0x106#9, 0x10D#9],
      (decodeKey key).toOption = none := by decide

theorem test_decode_table_word : decodeTableWord 16 0x101 = some .hdRead ∧ decodeTableWord 9 0x005 = some .fdFlush ∧
    decodeTableWord 16 0x201 = none := by decide

theorem test_encode_hd_write : encode .hdWrite = 0x102#9 := by decide

/-! ### Reset and registers (V41, V42, V43) -/

theorem test_reset_fd : (eng .fd).history = [.drive .sck true .ok] ∧ (eng .fd).mosi = none ∧
    [0#3, 1#3, 2#3, 3#3, 4#3, 5#3, 6#3, 7#3].map (fun n => regRead (ctrlReg n) (eng .fd)) = [0, 0, 0, 0, 0, 0, 0, 0] := by decide

theorem test_reset_hd : (eng .hd).history = [.drive .sda true .ok, .drive .sck true .ok] ∧
    [0#3, 1#3, 2#3, 3#3, 4#3, 5#3, 6#3, 7#3].map (fun n => regRead (ctrlReg n) (eng .hd)) = [1, 0, 0, 0, 0, 0, 0, 0] := by decide

theorem test_status_write_ignored : seen (regRead .status) (step (told [.regWrite 1#3 0xFF] (eng .fd))) = some 0 := by decide
theorem test_rx_len_write : seen (regRead .rxLen) (step (told [.regWrite 5#3 0x03] (eng .fd))) = some 3 := by decide
theorem test_cmd_reads_zero : seen (·.hostReads) (step (told [.regRead 3#3] (idle .fdRead))) = some [0] := by decide

/-! ### Bit engine arithmetic (V1, V3, V5, V39) -/

theorem test_out_bits : (List.range 8).map (outBit 0xA5#8) = [true, false, true, false, false, true, false, true] := by decide

theorem test_shift_accumulate :
    [true, false, true, true, false, false, true, false].foldl shiftIn 0#8 = 0xB2#8 := by decide

theorem test_sample_err_is_zero :
    [SampleAnswer.err, .high, .high, .high, .err, .high, .high, .err].foldl (fun r a => shiftIn r (levelOf a)) 0#8 = 0x76#8 := by
  decide

theorem test_failed_drive_is_recorded_only :
    seen (fun t => (t.sck, t.history.head?))
      (exec .fdWrite { mid .fdWrite .clkLow with params := (engErr .fd).params, driveScript := [.err] }) =
    some (false, some (.drive .sck false .err)) := by decide

/-! ### fd.read (V7, V37) -/

theorem test_fd_read_sample :
    seen (fun t => (t.rx, t.bit, t.phase, t.history.head?))
      (exec .fdRead { mid .fdRead .sample with bit := 7, sampleScript := [.low] }) =
    some (0xB2#8, 8, .store, some (.sample .miso .low)) := by decide

theorem test_fd_read_store :
    seen (fun t => (t.mem, t.word, t.phase)) (exec .fdRead { mid .fdRead .store with rx := 0xB2#8, bit := 8 }) =
    some ([(0x00, 0xB2#8), (0x08, 0x3C#8)], 1, .load) := by decide

/-! ### fd.write (V10, V12) -/

theorem test_fd_write_load :
    seen (fun t => (t.tx, t.phase, t.history.head?)) (exec .fdWrite (mid .fdWrite .load)) =
    some (0x3C#8, .drive, some (.memRead 0x08 0x3C#8)) := by decide

theorem test_fd_write_last_cell :
    seen (fun t => (t.sck, t.bit, t.word, t.phase)) (exec .fdWrite { mid .fdWrite .clkHigh with bit := 7 }) =
    some (true, 8, 1, .load) := by decide

/-! ### fd.transfer (V17, V35, V38) -/

theorem test_fd_transfer_mismatch_before_range :
    seen (fun t => (t.cause, t.phase, regRead .status t))
      (exec .fdTransfer { idle .fdTransfer with rxAddr := 0xFF, rxLen := 2, txAddr := 0, txLen := 1 }) =
    some (1#8, .fault, 2) := by decide

theorem test_fd_transfer_overlap :
    exec .fdTransfer { idle .fdTransfer with rxAddr := 0x10, rxLen := 2, txAddr := 0x11, txLen := 2 } =
      .refused .rangesOverlap ∧
    seen (·.phase) (exec .fdTransfer { idle .fdTransfer with rxAddr := 0x10, rxLen := 2, txAddr := 0x12, txLen := 2 }) =
      some .load := ⟨rfl, by decide⟩

/-! ### fd.transfer_in_place (V19) -/

theorem test_fd_in_place_captures_rx_buffer :
    seen (fun t => (t.tx, t.history.head?)) (exec .fdTransferInPlace (mid .fdTransferInPlace .load)) =
    some (0xF0#8, some (.memRead 0x00 0xF0#8)) := by decide

theorem test_fd_in_place_next_cell :
    seen (fun t => (t.rx, t.bit, t.phase))
      (exec .fdTransferInPlace { mid .fdTransferInPlace .sample with bit := 6, rx := 0x01#8, sampleScript := [.high] }) =
    some (0x03#8, 7, .drive) := by decide

/-! ### fd.flush (V30) -/

theorem test_fd_flush_completes :
    seen (fun t => (t.history.head?, t.busy, t.phase)) (exec .fdFlush (mid .fdFlush .done)) =
    some (some (.complete 0x05#8), false, .idle) := by decide

/-! ### hd.read (V22, V23) -/

theorem test_hd_read_prep :
    seen (fun t => (t.sda, t.phase, t.history.head?)) (exec .hdRead { mid .hdRead .prep with sda := false }) =
    some (true, .load, some (.drive .sda true .ok)) := by decide

theorem test_hd_read_sample :
    seen (fun t => (t.rx, t.phase, t.history.head?))
      (exec .hdRead { mid .hdRead .sample with bit := 0, rx := 0#8, sampleScript := [.high] }) =
    some (1#8, .clkLow, some (.sample .sda .high)) := by decide

/-! ### hd.write (V24, V25) -/

theorem test_hd_write_drives_sda :
    seen (fun t => (t.sda, t.mosi, t.phase)) (exec .hdWrite { mid .hdWrite .drive with tx := 0x9E#8, bit := 7 }) =
    some (false, none, .clkLow) := by decide

theorem test_hd_write_next_cell :
    seen (fun t => (t.bit, t.word, t.phase)) (exec .hdWrite { mid .hdWrite .clkHigh with bit := 6 }) =
    some (7, 0, .drive) := by decide

/-! ### hd.transfer, hd.transfer_in_place, hd.flush (V27, V28, V31) -/

theorem test_hd_transfer_mismatched_lengths :
    seen (fun t => (t.phase, t.busy, t.faulted)) (exec .hdTransfer { idle .hdTransfer with rxLen := 2, txLen := 1 }) =
    some (.done, true, false) := by decide

theorem test_hd_transfer_in_place_no_range_check :
    seen (fun t => (t.phase, t.op)) (exec .hdTransferInPlace { idle .hdTransferInPlace with rxAddr := 0xFF, rxLen := 0xFF }) =
    some (.done, 4#3) := by decide

theorem test_hd_flush_completes :
    seen (fun t => (t.history.head?, t.sda)) (exec .hdFlush { mid .hdFlush .done with sda := false }) =
    some (some (.complete 0x05#8), false) := by decide

/-! ### Faults and refusals (V32, V33, V34, V36, V37) -/

theorem test_illegal_commands_fault :
    ∀ c ∈ [0x00, 0x06, 0x07, 0x09, 0x0B, 0x81, 0xFF],
      seen (fun t => (t.cause, regRead .status t, t.history.head?))
        (step (told [.regWrite 3#3 c] { idle .fdTransfer with rxLen := 2, txLen := 1 })) =
      some (2#8, 2, some (.fault .illegalCmd)) := by decide

theorem test_fault_ignores_writes :
    seen (fun t => (t.txAddr, t.phase, t.history.length)) (step (told [.regWrite 6#3 0x10] (faulted .fd))) =
      some (0, .fault, 1) ∧
    seen (·.hostReads) (step (told [.regRead 1#3] (faulted .fd))) = some [2] := by decide

theorem test_range_refused_and_accepted :
    step (told [.regWrite 3#3 1] { idle .fdRead with rxAddr := 0xFF, rxLen := 2 }) = .refused .rangeOutsideMemory ∧
    seen (·.phase) (step (told [.regWrite 3#3 1] { idle .fdRead with rxAddr := 0xFF, rxLen := 1 })) = some .load :=
  ⟨rfl, by decide⟩

theorem test_value_too_wide : step (told [.regWrite 5#3 256] (eng .fd)) = .refused .valueTooWide := rfl

/-- R38: a read-only register ignores every value, one wider than it too. -/
theorem test_read_only_ignores_any_value :
    ∀ n ∈ [0#3, 1#3, 2#3], seen (fun t => (t.hostMoves, regRead (ctrlReg n) t)) (step (told [.regWrite n 256] (eng .fd))) =
      some ([], 0) := by decide

/-- R160, I15: the host that met a fault stays blocked. -/
theorem test_fault_blocks_memory :
    step (told [.memWrite 0 1#8] (faulted .fd)) = .fault .faultPhase ∧
    step (told [.memRead 0] (faulted .fd)) = .fault .faultPhase := ⟨rfl, rfl⟩

/-- `withFetchWord` runs a key of the other variant too (log 8), from the state after reset. -/
theorem test_placed_key_of_other_variant :
    seen (fun t => (t.params.variant, t.phase, t.op)) (step (State.reset.withFetchWord 16 0x101)) = some (.hd, .prep, 1#3) := by
  decide

/-! ### Witnesses: the hypotheses of each statement can be met, in each clause -/

theorem witness_ConstructionGivesResetState :
    (eng .fd).params.pinErrors = false ∧ (eng .fd).params.variant = .fd ∧ (eng .hd).params.variant = .hd := by decide

theorem witness_ConstructedEngineMeetsInvariant :
    Params.wf { variant := .hd, addrW := 1, lenW := 1, pinErrors := true } = true := by decide

/-- A busy engine in its first bit cell, at a state that meets the invariant. -/
theorem witness_inv_busy : Inv (mid .fdTransferInPlace .drive) where
  paramsWf := by decide
  rxAddrWidth := by decide
  rxLenWidth := by decide
  txAddrWidth := by decide
  txLenWidth := by decide
  memCanonical := by decide
  memInside := by decide
  busyExact := by decide
  faultExact := by decide
  causeExact := by decide
  clockExact := by decide
  sckRecorded := by decide
  mosiRecorded := by decide
  sdaRecorded := by decide
  mosiOnlyFd := by decide
  sdaOnlyHd := by decide
  bitBound := by decide
  opBound := by decide
  command := fun _ => ⟨.fdTransferInPlace, by decide, by decide, by decide, ⟨rfl, by decide, by decide⟩, by decide⟩

theorem witness_StepKeepsInvariant : ∃ t, Inv (mid .fdTransferInPlace .drive) ∧ step (mid .fdTransferInPlace .drive) = .next t :=
  ⟨_, witness_inv_busy, rfl⟩

theorem witness_StepKeepsMemoryCanonical :
    ∃ t, (mid .fdRead .store).mem.wf = true ∧ step { mid .fdRead .store with bit := 8 } = .next t := ⟨_, rfl, rfl⟩

theorem witness_DecodeTableIsExact :
    ∀ key ∈ [0x000#9, 0x006#9, 0x100#9, 0x1FF#9],
      key ∉ [0x001#9, 0x002#9, 0x003#9, 0x004#9, 0x005#9, 0x101#9, 0x102#9, 0x103#9, 0x104#9, 0x105#9] := by decide

theorem witness_DecodeUndoesEncode : decodeKey 0x105#9 = .op .hdFlush := by decide

theorem witness_StepRunsIssuedCommand :
    let s := told [.regWrite 3#3 (0x02#8).toNat] (idle .hdWrite)
    s.phase = .idle ∧ s.hostMoves = .regWrite 3#3 (0x02#8).toNat :: [] ∧
      decodeKey (keyOf s.params.variant 0x02#8) = .op .hdWrite := by decide

theorem witness_StepRunsCommandInProgress :
    let s := mid .hdWrite .clkHigh
    s.phase ≠ .idle ∧ s.phase ≠ .fault ∧ decodeKey (keyOf s.params.variant (0#5 ++ s.op)) = .op .hdWrite := by decide

theorem witness_PlacedCommandRunsNext :
    (eng .hd).phase = .idle ∧ Instr.hdTransfer.wf (eng .hd).params.variant = true := by decide

theorem witness_NoStepWithoutHostMove :
    (eng .fd).phase = .idle ∧ (eng .fd).hostMoves = [] ∧ (faulted .hd).phase = .fault ∧ (faulted .hd).hostMoves = [] ∧
    (told [.memRead 0] (faulted .hd)).hostMoves = .memRead 0 :: [] ∧
    (told [.memWrite 0xFF 1#8] (faulted .fd)).hostMoves = .memWrite 0xFF 1#8 :: [] := by decide

theorem witness_IllegalCommandFaults :
    ∀ c ∈ [0x00#8, 0x06#8, 0x07#8, 0x08#8, 0xFF#8],
      let s := told [.regWrite 3#3 c.toNat] (eng .hd)
      s.phase = .idle ∧ s.hostMoves = .regWrite 3#3 c.toNat :: [] ∧
        (c.extractLsb' 3 5 ≠ 0#5 ∨ c.extractLsb' 0 3 = 0#3 ∨ c.extractLsb' 0 3 = 6#3 ∨ c.extractLsb' 0 3 = 7#3) := by decide

theorem witness_LengthMismatchFaults :
    ({ idle .fdTransfer with rxLen := 0 } : State).rxLen ≠ (idle .fdTransfer).txLen ∧ (idle .fdTransfer).phase = .idle ∧
    ∃ t, Instr.hdTransfer ≠ .fdTransfer ∧ exec .hdTransfer (idle .hdTransfer) = .next t := ⟨by decide, rfl, _, by decide, rfl⟩

/-- Each clause, with a range that ends one address too far. -/
theorem witness_RangeOutsideMemoryIsRefused :
    let s : State := { idle .fdTransfer with rxAddr := 0xFF, rxLen := 2, txAddr := 0xFE, txLen := 3 }
    let r : State := { s with txAddr := 0x00, txLen := 2 }
    let w : State := { s with rxAddr := 0x00, rxLen := 3 }
    (s.phase = .idle ∧ 2 ^ s.params.addrW < s.rxAddr + s.rxLen ∧ 2 ^ s.params.addrW < s.txAddr + s.txLen) ∧
    (r.phase = .idle ∧ r.rxLen = r.txLen ∧ 2 ^ r.params.addrW < r.rxAddr + r.rxLen) ∧
    (w.phase = .idle ∧ w.rxLen = w.txLen ∧ 2 ^ w.params.addrW < w.txAddr + w.txLen) := by decide

theorem witness_SharedAddressIsRefused :
    let s : State := { idle .fdTransfer with rxAddr := 0x10, rxLen := 2, txAddr := 0x11, txLen := 2 }
    s.phase = .idle ∧ s.rxLen = s.txLen ∧ s.rxAddr + s.rxLen ≤ 2 ^ s.params.addrW ∧ s.txAddr + s.txLen ≤ 2 ^ s.params.addrW ∧
      ∃ a, (s.rxAddr ≤ a ∧ a < s.rxAddr + s.rxLen) ∧ (s.txAddr ≤ a ∧ a < s.txAddr + s.txLen) :=
  ⟨rfl, rfl, by decide, by decide, 0x11, by decide⟩

theorem witness_AcceptanceChecksInOrder :
    let s := told [.regWrite 3#3 (0x03#8).toNat] (idle .fdTransfer)
    s.phase = .idle ∧ s.hostMoves = .regWrite 3#3 (0x03#8).toNat :: [] := by decide

/-- Each of the ten operations, with ranges that end exactly at the top of memory, and adjacent for fd.transfer. -/
theorem witness_AcceptedCommandStarts :
    let s : State := { eng .fd with rxAddr := 0xFE, rxLen := 2, txAddr := 0xFC, txLen := 2 }
    s.phase = .idle ∧ s.rxAddr + s.rxLen ≤ 2 ^ s.params.addrW ∧ s.txAddr + s.txLen ≤ 2 ^ s.params.addrW ∧
      s.rxLen = s.txLen ∧ ∀ a, ¬ ((s.rxAddr ≤ a ∧ a < s.rxAddr + s.rxLen) ∧ (s.txAddr ≤ a ∧ a < s.txAddr + s.txLen)) :=
  ⟨rfl, by decide, by decide, rfl, fun a h => by
    have h₁ : 0xFE ≤ a := h.1.1
    have h₂ : a < 0xFC + 2 := h.2.2
    omega⟩

theorem witness_PrepDrivesSdaHigh : (mid .hdRead .prep).phase = .prep ∧ (mid .hdRead .prep).params.pinErrors = false := by decide

theorem witness_LoadEndsAtLength :
    (∀ k ∈ [Instr.fdRead, .hdRead, .fdTransfer, .fdTransferInPlace, .fdWrite, .hdWrite],
      let s : State := { mid k .load with word := 1 }
      s.phase = .load ∧ s.word = s.rxLen ∧ s.word = s.txLen) := by decide

/-- The last byte of memory as the source, in each of the four operations. -/
theorem witness_LoadCapturesOutgoingWord :
    let s : State := { mid .fdTransfer .load with rxAddr := 0xFF, txAddr := 0xFE, rxLen := 1, txLen := 2 }
    let w : State := { s with word := 1 }
    (s.phase = .load ∧ s.word ≠ s.rxLen ∧ s.rxAddr + s.word < 2 ^ s.params.addrW ∧ s.txAddr + s.word < 2 ^ s.params.addrW) ∧
    (w.phase = .load ∧ w.word ≠ w.txLen ∧ w.txAddr + w.word < 2 ^ w.params.addrW) ∧
    ∃ t, (mid .fdWrite .drive).phase ≠ .load ∧ exec .fdWrite (mid .fdWrite .drive) = .next t :=
  ⟨by decide, by decide, _, by decide, rfl⟩

theorem witness_LoadStartsReceiveOnlyWord :
    ∀ k ∈ [Instr.fdRead, .hdRead], (mid k .load).phase = .load ∧ (mid k .load).word ≠ (mid k .load).rxLen := by decide

theorem witness_DriveSendsNextBit :
    ∀ k ∈ [Instr.fdWrite, .fdTransfer, .fdTransferInPlace, .hdWrite],
      let s : State := { mid k .drive with bit := 7 }
      s.phase = .drive ∧ s.bit < 8 ∧ s.params.pinErrors = false := by decide

theorem witness_ClockFalls :
    ∀ k ∈ [Instr.fdRead, .fdWrite, .fdTransfer, .fdTransferInPlace, .hdRead, .hdWrite], (mid k .clkLow).phase = .clkLow := by
  decide

theorem witness_ClockRisesBeforeSample :
    ∀ k ∈ [Instr.fdRead, .fdTransfer, .fdTransferInPlace, .hdRead], (mid k .clkHigh).phase = .clkHigh := by decide

/-- Both sides of the bound: the eighth cell and the one before it. -/
theorem witness_ClockRiseEndsTransmitCell :
    ∀ k ∈ [Instr.fdWrite, .hdWrite], ∀ b ∈ [6, 7],
      let s : State := { mid k .clkHigh with bit := b }
      s.phase = .clkHigh ∧ (s.bit + 1 < 8 ↔ b = 6) := by decide

theorem witness_SampleShiftsAnswerIn :
    ∀ k ∈ [Instr.fdRead, .fdTransfer, .fdTransferInPlace, .hdRead], ∀ b ∈ [6, 7],
      ∀ x ∈ [(true, SampleAnswer.err), (false, .high), (false, .low)],
      let s : State := { mid k .sample with
        bit := b, sampleScript := [x.2], params := { variant := k.variant, addrW := 8, lenW := 8, pinErrors := x.1 } }
      s.phase = .sample ∧ s.sampleScript = x.2 :: [] ∧ (s.params.pinErrors = true ∨ x.2 ≠ .err) := by decide

theorem witness_StoreWritesReceivedWord :
    ∀ k ∈ [Instr.fdRead, .fdTransfer, .fdTransferInPlace, .hdRead],
      let s : State := { mid k .store with rxAddr := 0xFF }
      s.phase = .store ∧ s.rxAddr + s.word < 2 ^ s.params.addrW ∧ 0xFE ≠ s.rxAddr + s.word := by decide

theorem witness_DoneCompletesCommand : ∀ k : Instr, (mid k .done).phase = .done := by intro k; cases k <;> decide

theorem witness_EightSamplesMakeTheWord :
    let l := [true, false, true, true, false, false, true, false]
    l.length = 8 ∧ 0 < l.length ∧ 7 < l.length := by decide

/-- A next state in every phase an operation visits: the hypotheses of the frames AtMostOneEventPerStep,
OperandRegistersUnchanged, MemoryUnchangedElsewhere, LinesUnchangedElsewhere and StatusAndPositionUnchangedElsewhere. -/
theorem witness_frames :
    (∀ k ∈ [Instr.fdRead, .fdWrite, .fdTransferInPlace, .fdFlush, .hdRead, .hdWrite, .hdTransfer, .hdTransferInPlace,
        .hdFlush], (seen id (exec k (idle k))).isSome = true ∧ (seen id (exec k (mid k .done))).isSome = true) ∧
    (∀ k ∈ [Instr.fdRead, .fdTransfer, .fdTransferInPlace, .hdRead],
      (seen id (exec k { mid k .sample with sampleScript := [.high] })).isSome = true ∧
      (seen id (exec k (mid k .store))).isSome = true) ∧
    (∀ k ∈ [Instr.fdWrite, .fdTransfer, .fdTransferInPlace, .hdWrite],
      (seen id (exec k (mid k .load))).isSome = true ∧ (seen id (exec k (mid k .drive))).isSome = true ∧
      (seen id (exec k (mid k .clkLow))).isSome = true ∧ (seen id (exec k (mid k .clkHigh))).isSome = true) ∧
    (seen id (exec .hdRead (mid .hdRead .prep))).isSome = true ∧
    seen (fun t => t.history.head?) (exec .hdRead (mid .hdRead .prep)) = some (some (.drive .sda true .ok)) ∧
    (seen id (exec .fdTransfer (idle .fdTransfer))).isSome = true := by decide

theorem witness_RegisterReadsReturnFields :
    ∀ n : BitVec 3, (told [.regRead n] (eng .fd)).phase = .idle ∧ (told [.regRead n] (faulted .hd)).phase = .fault ∧
      (told [.regRead n] (eng .fd)).hostMoves = .regRead n :: [] := fun _ => ⟨rfl, rfl, rfl⟩

/-- The largest value each operand register holds, in IDLE, and any value for a read-only one; a write and a read in FAULT; and a
step of a busy engine. -/
theorem witness_RegisterAccessRules :
    (told [.regWrite 2#3 256] (eng .hd)).phase = .idle ∧ (∀ n : BitVec 3, (told [.regWrite n 255] (eng .hd)).phase = .idle ∧ 255 < 2 ^ (eng .hd).params.addrW ∧
      255 < 2 ^ (eng .hd).params.lenW ∧ (told [.regWrite n 255] (faulted .hd)).phase = .fault ∧
      (told [.regRead n] (faulted .hd)).phase = .fault) ∧
    ∃ t, (mid .fdRead .clkLow).phase ≠ .idle ∧ (mid .fdRead .clkLow).phase ≠ .fault ∧ step (mid .fdRead .clkLow) = .next t :=
  ⟨rfl, fun _ => by simp [told, eng, faulted, State.construct], _, by decide, by decide, rfl⟩

/-- The last address, read back; and another one. -/
theorem witness_HostReadsWhatItWrote :
    ∀ b ∈ [0xFF, 0x00],
      let s := told [.memWrite 0xFF 0x55#8, .memRead b] (eng .fd)
      s.phase = .idle ∧ s.hostMoves = .memWrite 0xFF 0x55#8 :: .memRead b :: [] ∧ 0xFF < 2 ^ s.params.addrW ∧
        b < 2 ^ s.params.addrW := by decide

theorem witness_FaultIsTerminal :
    ∀ m ∈ [HostMove.regWrite 6#3 0x10, .regRead 1#3, .construct .hd],
      (told [m] (faulted .fd)).phase = .fault ∧ (seen (fun _ => ()) (step (told [m] (faulted .fd)))).isSome = true := by decide

theorem witness_ConstructionStartsAgain :
    ∀ v : Variant, (told [.construct v] (eng .fd)).phase = .idle ∧ (told [.construct v] (faulted .hd)).phase = .fault ∧
      (told [.construct v] (eng .fd)).hostMoves = .construct v :: [] := fun _ => ⟨rfl, rfl, rfl⟩

theorem witness_ParametersFixedForInstance :
    ∃ t u, step (mid .fdRead .clkLow) = .next t ∧ step (told [.construct .hd] (eng .fd)) = .next u := ⟨_, _, rfl, rfl⟩

/-- Each form of line, with operands at the top of their ranges. -/
theorem witness_AssembledLineIssuesItsCommand :
    ∀ l ∈ [AsmLine.read 255 255, .write 255 255, .transfer 255 1 254 1, .transferInPlace 255 1, .flush],
      let s := told (assemble l ++ [.regRead 1#3]) (eng .fd)
      s.phase = .idle ∧ l.wf s.params = true ∧ s.hostMoves = assemble l ++ [.regRead 1#3] := by decide

/-- Each of the ten operations is accepted, with one word. -/
theorem witness_acceptable : ∀ k : Instr, k.wf (idle k).params.variant = true ∧ Acceptable k (idle k) := by
  intro k; cases k <;> exact ⟨rfl, rfl, rfl, rfl⟩

theorem witness_EveryCommandCompletes : ∀ k : Instr, k.wf (idle k).params.variant = true ∧ Acceptable k (idle k) :=
  witness_acceptable

theorem witness_CommandsWithoutCellsOnlyComplete :
    ∀ k ∈ [Instr.fdFlush, .hdTransfer, .hdTransferInPlace, .hdFlush],
      k.wf (idle k).params.variant = true ∧ (idle k).phase = .idle := by decide

/-- For ReceivedWordsAreTheSamples: one word, so i = 0, and an address beside it. -/
theorem witness_ReceivedWordsAreTheSamples :
    ∀ k ∈ [Instr.fdRead, .fdTransfer, .fdTransferInPlace, .hdRead],
      k.wf (idle k).params.variant = true ∧ Acceptable k (idle k) ∧ 0 < (idle k).rxLen ∧
        (idle k).rxAddr + (idle k).rxLen ≤ 1 := by
  intro k _; exact ⟨(witness_acceptable k).1, (witness_acceptable k).2, by cases k <;> decide, by cases k <;> decide⟩

theorem witness_TransmittedBitsAreTheWords :
    ∀ k ∈ [Instr.fdWrite, .fdTransfer, .fdTransferInPlace, .hdWrite],
      k.wf (idle k).params.variant = true ∧ Acceptable k (idle k) := fun k _ => witness_acceptable k

/-- For TransmitLeavesLastBit: a word, and none. -/
theorem witness_TransmitLeavesLastBit :
    ∀ k ∈ [Instr.fdWrite, .fdTransfer, .fdTransferInPlace, .hdWrite],
      (Acceptable k (idle k) ∧ lengthOf k (idle k) = 0 + 1) ∧
      (Acceptable k (eng k.variant) ∧ lengthOf k (eng k.variant) = 0) := by
  intro k _
  refine ⟨⟨(witness_acceptable k).2, ?_⟩, ?_⟩ <;> (cases k <;> first | contradiction | exact ⟨⟨rfl, rfl, rfl⟩, rfl⟩ | rfl)

theorem witness_EmptyCommandsOnlyComplete :
    ∀ k : Instr, movesData k = true →
      k.wf (eng k.variant).params.variant = true ∧ Acceptable k (eng k.variant) ∧ lengthOf k (eng k.variant) = 0 := by
  intro k _; cases k <;> exact ⟨rfl, ⟨rfl, rfl, rfl⟩, rfl⟩

theorem witness_EventCountsOfACommand : ∀ k : Instr, k.wf (idle k).params.variant = true ∧ Acceptable k (idle k) :=
  witness_acceptable

/-- The slave's answers are the bits of 0xF0, the word at RX_ADDR, and one answer is left over. -/
theorem witness_LoopbackKeepsTheBuffer :
    let s : State := { idle .fdTransferInPlace with
      sampleScript := [.high, .high, .high, .high, .low, .low, .low, .low, .err] }
    Instr.fdTransferInPlace.wf s.params.variant = true ∧ Acceptable .fdTransferInPlace s ∧
    s.sampleScript =
      (List.range s.rxLen).flatMap
        (fun i => (wireBits (s.mem.read (s.rxAddr + i))).map (fun b => if b then .high else .low)) ++ [.err] :=
  ⟨rfl, ⟨rfl, rfl, rfl⟩, by decide⟩

theorem witness_PinAnswersChangeNothingElse :
    ∃ t, exec .fdRead { mid .fdRead .sample with sampleScript := [.high] } = .next t ∧
      ({ mid .fdRead .sample with sampleScript := [.high] } : State).sampleScript ≠ [] ∧
      [Event.drive .sck true .err].map eraseAnswer = (mid .fdRead .sample).history.map eraseAnswer :=
  ⟨_, rfl, by decide, by decide⟩

theorem witness_ClockRestsHigh :
    Inv (mid .fdTransferInPlace .drive) ∧ (mid .fdTransferInPlace .drive).phase ≠ .clkHigh ∧
      knownLevel (mid .fdTransferInPlace .drive).history .sck ≠ none := ⟨witness_inv_busy, by decide, by decide⟩

end Sys2Proof.Tests
end

section
/-! PROOF. The parameters of an engine (R2, R8): no step of a command writes them, and of the host's moves only a construction
does. -/

namespace Sys2Proof.Machine

/-- What a step of the machine can do (R97): the host's next move in IDLE or FAULT, else a rule of R99 for the latched command. -/
theorem step_next_cases {s t : State} (e : step s = .next t) :
    (∃ m rest, (s.phase = .idle ∨ s.phase = .fault) ∧ s.hostMoves = m :: rest ∧
      hostMove m { s with hostMoves := rest } = .next t) ∨
    (∃ k, s.phase ≠ .idle ∧ s.phase ≠ .fault ∧ latched s = .op k ∧ StepOf k s t) := by
  by_cases blocked : s.phase = .idle ∨ s.phase = .fault
  · have host : step s = hostStep s := by
      obtain hp | hp := blocked <;> simp only [step, hp]
    rw [host, hostStep] at e
    split at e
    · next m rest hm => exact .inl ⟨m, rest, blocked, hm, e⟩
    · split at e <;> cases e
  · obtain ⟨hi, hf⟩ := not_or.mp blocked
    have busy : step s = busyStep s := by
      unfold step
      cases hp : s.phase <;> simp_all
    rw [busy, busyStep] at e
    split at e
    · next k hk => exact .inr ⟨k, hi, hf, hk, exec_next_iff.mp e⟩
    · cases e

/-- No step of a command writes the parameters. -/
theorem StepOf.params_eq {k : Instr} {s t : State} (h : StepOf k s t) : t.params = s.params := by
  cases h <;> rfl

theorem issue_params {c : Word} {s t : State} (e : issue c s = .next t) : t.params = s.params := by
  unfold issue at e
  split at e
  · exact (exec_next_iff.mp e).params_eq
  · cases e
    rfl

theorem regWrite_params (r : CtrlReg) (v : Nat) (s : State) : (regWrite r v s).params = s.params := by
  cases r <;> rfl

theorem regWriteMove_params {r : CtrlReg} {v : Nat} {s t : State} (e : regWriteMove r v s = .next t) :
    t.params = s.params := by
  obtain ⟨-, -, issued⟩ | ⟨-, rfl⟩ | ⟨-, -, rfl⟩ := regWriteMove_next e
  · exact issue_params issued
  · rfl
  · exact regWrite_params r v s

/-- A construction sets the variant, and keeps the platform's parameters (R190; log 12). -/
@[simp] theorem reconstruct_params (v : Variant) (s : State) :
    (reconstruct v s).params = { s.params with variant := v } := by
  cases v <;> rfl

/-- Of the moves in IDLE only a construction writes the parameters. -/
theorem idleMove_params {m : HostMove} {s t : State} (e : idleMove m s = .next t) :
    t.params = s.params ∨ ∃ v, m = .construct v ∧ t.params = { s.params with variant := v } := by
  cases m with
  | regWrite n v => exact .inl (regWriteMove_params e)
  | regRead n =>
    cases e
    exact .inl rfl
  | memWrite a v =>
    obtain ⟨-, rfl⟩ := memWriteMove_next_iff.mp e
    exact .inl rfl
  | memRead a =>
    obtain ⟨-, rfl⟩ := memReadMove_next_iff.mp e
    exact .inl rfl
  | construct v =>
    cases e
    exact .inr ⟨v, rfl, reconstruct_params v s⟩

/-- Of the moves in FAULT only a construction writes the parameters. -/
theorem faultMove_params {m : HostMove} {s t : State} (e : faultMove m s = .next t) :
    t.params = s.params ∨ ∃ v, m = .construct v ∧ t.params = { s.params with variant := v } := by
  obtain ⟨-, -, -, rfl⟩ | ⟨-, -, rfl⟩ | ⟨v, rfl, rfl⟩ := faultMove_next_iff.mp e
  · exact .inl rfl
  · exact .inl rfl
  · exact .inr ⟨v, rfl, reconstruct_params v s⟩

theorem hostMove_params {m : HostMove} {s t : State} (e : hostMove m s = .next t) :
    t.params = s.params ∨ ∃ v, m = .construct v ∧ t.params = { s.params with variant := v } := by
  unfold hostMove at e
  split at e
  · exact faultMove_params e
  · exact idleMove_params e

/-- Settles O39: a command keeps the parameters by each rule of R99, and of the host's moves only a construction sets the variant. -/
theorem parametersFixedForInstance : Obligations.ParametersFixedForInstance := by
  intro s t e
  obtain ⟨m, rest, blocked, hm, moved⟩ | ⟨k, -, -, -, rule⟩ := step_next_cases e
  · obtain same | ⟨v, rfl, set⟩ := hostMove_params moved
    · exact .inl same
    · exact .inr ⟨v, rest, hm, blocked, set⟩
  · exact .inl rule.params_eq

end Sys2Proof.Machine
end

section
/-! PROOF. The pin layer's answers (R15, R166): every update of a command takes two states that differ only in the answers to
two that differ only in them, so each rule of R99 that applies to the one applies to the other. -/

namespace Sys2Proof.Machine

/-- `t` is `s` but for the answers of the pin layer, on record and to come, and the numbering of free answers (log 3). -/
def SameButAnswers (s t : State) : Prop :=
  ∃ (h : List Event) (d : List DriveAnswer) (n : Nat),
    t = withAnswers h d n s ∧ h.map eraseAnswer = s.history.map eraseAnswer

/-- Recording events that differ at most in a drive answer keeps histories the same but for the answers. -/
theorem map_eraseAnswer_cons {e e' : Event} {h h' : List Event} (he : eraseAnswer e' = eraseAnswer e)
    (hh : h'.map eraseAnswer = h.map eraseAnswer) : (e' :: h').map eraseAnswer = (e :: h).map eraseAnswer := by
  rw [List.map_cons, List.map_cons, he, hh]

/-- A given answer of the slave does not depend on the history (R14; log 3). -/
theorem sampleAnswer_withAnswers {s : State} (given : s.sampleScript ≠ []) (p : Pin) (h : List Event)
    (d : List DriveAnswer) (n : Nat) : sampleAnswer p (withAnswers h d n s) = sampleAnswer p s := by
  obtain ⟨a, rest, hs⟩ := List.exists_cons_of_ne_nil given
  simp only [sampleAnswer, withAnswers, hs]

namespace SameButAnswers

variable {s t : State} (same : SameButAnswers s t)
include same

/-! ### Updates that record no event -/

theorem after_toPhase (ph : Phase) : SameButAnswers (toPhase ph s) (toPhase ph t) := by
  obtain ⟨h, d, n, rfl, hh⟩ := same
  exact ⟨h, d, n, rfl, hh⟩

theorem after_accepted (k : Instr) : SameButAnswers (accepted k s) (accepted k t) := by
  obtain ⟨h, d, n, rfl, hh⟩ := same
  exact ⟨h, d, n, rfl, hh⟩

theorem after_startWord : SameButAnswers (startWord s) (startWord t) := by
  obtain ⟨h, d, n, rfl, hh⟩ := same
  exact ⟨h, d, n, rfl, hh⟩

theorem after_endCell : SameButAnswers (endCell s) (endCell t) := by
  obtain ⟨h, d, n, rfl, hh⟩ := same
  exact ⟨h, d, n, rfl, hh⟩

theorem after_endWord : SameButAnswers (endWord s) (endWord t) := by
  obtain ⟨h, d, n, rfl, hh⟩ := same
  exact ⟨h, d, n, rfl, hh⟩

/-! ### Updates that record an event -/

/-- The two drives may be answered differently; only the record of the answer tells (R15). -/
theorem after_drive (p : Pin) (v : Level) : SameButAnswers (drive p v s) (drive p v t) := by
  obtain ⟨h, d, n, rfl, hh⟩ := same
  exact ⟨_, d.tail, n + 1, rfl, map_eraseAnswer_cons rfl hh⟩

theorem after_sampleShift (p : Pin) (given : s.sampleScript ≠ []) :
    SameButAnswers (sampleShift p s) (sampleShift p t) := by
  obtain ⟨h, d, n, rfl, hh⟩ := same
  refine ⟨.sample p (sampleAnswer p s) :: h, d, n + 1, ?_, map_eraseAnswer_cons rfl hh⟩
  rw [sampleShift, sampleAnswer_withAnswers given]
  rfl

theorem after_loadTx (a : Nat) : SameButAnswers (loadTx a s) (loadTx a t) := by
  obtain ⟨h, d, n, rfl, hh⟩ := same
  exact ⟨_, d, n, rfl, map_eraseAnswer_cons rfl hh⟩

theorem after_storeRx (a : Nat) : SameButAnswers (storeRx a s) (storeRx a t) := by
  obtain ⟨h, d, n, rfl, hh⟩ := same
  exact ⟨_, d, n, rfl, map_eraseAnswer_cons rfl hh⟩

theorem after_completeCommand : SameButAnswers (completeCommand s) (completeCommand t) := by
  obtain ⟨h, d, n, rfl, hh⟩ := same
  exact ⟨_, d, n, rfl, map_eraseAnswer_cons rfl hh⟩

theorem after_raiseFault (c : FaultCause) : SameButAnswers (raiseFault c s) (raiseFault c t) := by
  obtain ⟨h, d, n, rfl, hh⟩ := same
  exact ⟨_, d, n, rfl, map_eraseAnswer_cons rfl hh⟩

end SameButAnswers

/-- The rule of R99 that applies to a state applies to one that differs in the answers only, and the next states differ in them only. -/
theorem StepOf.sameButAnswers {k : Instr} {s t : State} {h : List Event} {d : List DriveAnswer} {n : Nat}
    (rule : StepOf k s t) (given : s.phase = .sample → s.sampleScript ≠ [])
    (hh : h.map eraseAnswer = s.history.map eraseAnswer) :
    ∃ t', StepOf k (withAnswers h d n s) t' ∧ SameButAnswers t t' := by
  have same : SameButAnswers s (withAnswers h d n s) := ⟨h, d, n, rfl, hh⟩
  cases rule with
  | mismatch hp hl => exact ⟨_, .mismatch hp hl, same.after_raiseFault _⟩
  | accept hp hl hr => exact ⟨_, .accept hp hl hr, (same.after_accepted k).after_toPhase _⟩
  | prep hp hk => exact ⟨_, .prep hp hk, (same.after_drive _ _).after_toPhase _⟩
  | loadEnd hp hk hw => exact ⟨_, .loadEnd hp hk hw, same.after_toPhase _⟩
  | loadRx hp hr ht hw => exact ⟨_, .loadRx hp hr ht hw, same.after_startWord.after_toPhase _⟩
  | loadTx hp ht hw ha => exact ⟨_, .loadTx hp ht hw ha, (same.after_startWord.after_loadTx _).after_toPhase _⟩
  | drive hp ht => exact ⟨_, .drive hp ht, (same.after_drive _ _).after_toPhase _⟩
  | clkLow hp hk => exact ⟨_, .clkLow hp hk, (same.after_drive _ _).after_toPhase _⟩
  | clkHighRx hp hr => exact ⟨_, .clkHighRx hp hr, (same.after_drive _ _).after_toPhase _⟩
  | clkHighCell hp ht hr hb =>
    exact ⟨_, .clkHighCell hp ht hr hb, (same.after_drive _ _).after_endCell.after_toPhase _⟩
  | clkHighWord hp ht hr hb =>
    exact ⟨_, .clkHighWord hp ht hr hb, (same.after_drive _ _).after_endCell.after_endWord.after_toPhase _⟩
  | sampleCell hp hr hb =>
    exact ⟨_, .sampleCell hp hr hb, (same.after_sampleShift _ (given hp)).after_endCell.after_toPhase _⟩
  | sampleWord hp hr hb =>
    exact ⟨_, .sampleWord hp hr hb, (same.after_sampleShift _ (given hp)).after_endCell.after_toPhase _⟩
  | store hp hr ha => exact ⟨_, .store hp hr ha, (same.after_storeRx _).after_endWord.after_toPhase _⟩
  | done hp => exact ⟨_, .done hp, same.after_completeCommand⟩

/-- Settles O49: the two runs take the same rule of R99, and its updates keep them the same but for the answers. -/
theorem pinAnswersChangeNothingElse : Obligations.PinAnswersChangeNothingElse := by
  intro k s t h d n e given hh
  obtain ⟨t', rule, h', d', n', rfl, hh'⟩ := (exec_next_iff.mp e).sameButAnswers given hh
  exact ⟨h', d', n', exec_next_iff.mpr rule, hh'⟩

end Sys2Proof.Machine
end

section
/-! PROOF. The engine seen from outside (R38, R40, R48, R97): what a step is in each phase, the control registers at the host's
port, and the clock line outside a pulse. -/

namespace Sys2Proof.Machine

/-! ### What a step is -/

/-- R97: in IDLE and in FAULT a step is the host's next move. -/
theorem step_eq_hostMove {s : State} {m : HostMove} {rest : List HostMove} (blocked : s.phase = .idle ∨ s.phase = .fault)
    (hm : s.hostMoves = m :: rest) : step s = hostMove m { s with hostMoves := rest } := by
  obtain hp | hp := blocked <;> simp only [step, hp, hostStep, hm]

theorem step_eq_idleMove {s : State} {m : HostMove} {rest : List HostMove} (hp : s.phase = .idle)
    (hm : s.hostMoves = m :: rest) : step s = idleMove m { s with hostMoves := rest } := by
  exact (step_eq_hostMove (.inl hp) hm).trans (hostMove_of_idle hp)

theorem step_eq_faultMove {s : State} {m : HostMove} {rest : List HostMove} (hp : s.phase = .fault)
    (hm : s.hostMoves = m :: rest) : step s = faultMove m { s with hostMoves := rest } := by
  exact (step_eq_hostMove (.inr hp) hm).trans (hostMove_of_fault hp)

/-- R40, R97: in every other phase a step is one of the command in progress. -/
theorem step_eq_busyStep {s : State} (hi : s.phase ≠ .idle) (hf : s.phase ≠ .fault) : step s = busyStep s := by
  unfold step
  split
  case h_1 hp => exact absurd hp hi
  case h_2 hp => exact absurd hp hf
  all_goals rfl

/-- Settles O8: the latched operation is what the latch decodes to, and a busy step runs it. -/
theorem stepRunsCommandInProgress : Obligations.StepRunsCommandInProgress := by
  intro s i hi hf decoded
  have latch : latched s = .op i := decoded
  rw [step_eq_busyStep hi hf, busyStep, latch]

/-! ### The control registers -/

/-- R30: CONFIG is the variant's bit. -/
theorem configByte_toNat (s : State) : (configByte s).toNat = if s.params.variant = .hd then 1 else 0 := by
  unfold configByte
  cases s.params.variant <;> rfl

/-- R31: STATUS is {0, FAULT, BUSY}. -/
theorem statusByte_toNat (s : State) :
    (statusByte s).toNat = (if s.faulted then 2 else 0) + (if s.busy then 1 else 0) := by
  unfold statusByte
  cases s.faulted <;> cases s.busy <;> rfl

/-- R38: a register read in IDLE and in FAULT gives the host the register's value and changes nothing else. -/
theorem step_regRead {s : State} {n : BitVec 3} {rest : List HostMove} (blocked : s.phase = .idle ∨ s.phase = .fault)
    (hm : s.hostMoves = .regRead n :: rest) :
    step s = .next { s with hostMoves := rest, hostReads := regRead (ctrlReg n) s :: s.hostReads } := by
  have same : regRead (ctrlReg n) { s with hostMoves := rest } = regRead (ctrlReg n) s := by
    cases ctrlReg n <;> rfl
  obtain hp | hp := blocked
  · rw [step_eq_idleMove hp hm, ← same]
    rfl
  · rw [step_eq_faultMove hp hm, ← same]
    rfl

/-- R29: a register number is one of eight. -/
theorem regNumber_cases (n : BitVec 3) :
    n = 0#3 ∨ n = 1#3 ∨ n = 2#3 ∨ n = 3#3 ∨ n = 4#3 ∨ n = 5#3 ∨ n = 6#3 ∨ n = 7#3 := by
  decide +revert

/-- Settles O34: a read gives the register's value, and each register number names the field it is read from (R29). -/
theorem registerReadsReturnFields : Obligations.RegisterReadsReturnFields := by
  intro s n rest blocked hm
  rw [step_regRead blocked hm]
  congr 3
  obtain rfl | rfl | rfl | rfl | rfl | rfl | rfl | rfl := regNumber_cases n
  · exact configByte_toNat s
  · exact statusByte_toNat s
  all_goals rfl

/-- R30 to R32: the numbers of the read-only registers. -/
theorem ctrlReg_readOnly {n : BitVec 3} (hn : n ∈ [0#3, 1#3, 2#3]) :
    ctrlReg n ∈ [CtrlReg.config, .status, .cause] := by
  decide +revert

/-- R38: a write of a read-only register in IDLE changes nothing. -/
theorem regWriteMove_readOnly {r : CtrlReg} (hr : r ∈ [CtrlReg.config, .status, .cause]) (v : Nat) (s : State) :
    regWriteMove r v s = .next s := by
  simp only [List.mem_cons, List.not_mem_nil, or_false] at hr
  obtain rfl | rfl | rfl := hr <;> rfl

/-- R34 to R37: a write of an operand register in IDLE sets it, when the value fits. -/
theorem regWriteMove_operand {r : CtrlReg} {v : Nat} {s : State} (hr : r ∈ [CtrlReg.rxAddr, .rxLen, .txAddr, .txLen])
    (fits : v < 2 ^ regWidth s.params r) : regWriteMove r v s = .next (regWrite r v s) := by
  simp only [List.mem_cons, List.not_mem_nil, or_false] at hr
  obtain rfl | rfl | rfl | rfl := hr <;> exact if_pos fits

/-- R38: while a command is in progress no host move is taken and no read is answered. -/
theorem StepOf.host_eq {k : Instr} {s t : State} (rule : StepOf k s t) :
    t.hostMoves = s.hostMoves ∧ t.hostReads = s.hostReads := by
  cases rule <;> exact ⟨rfl, rfl⟩

/-- Settles O35: in IDLE by the register written, in FAULT by the move, and of a busy engine by the rules of R99. -/
theorem registerAccessRules : Obligations.RegisterAccessRules := by
  refine ⟨?idleWrite, fun _ => rfl, ?faultWrite, ?faultRead, ?busy⟩
  case idleWrite =>
    intro s n v rest hp hm
    have move : step s = regWriteMove (ctrlReg n) v { s with hostMoves := rest } := step_eq_idleMove hp hm
    rw [move]
    refine ⟨fun hn => regWriteMove_readOnly (ctrlReg_readOnly hn) v _, ?_, ?_, ?_, ?_⟩
    all_goals
      rintro rfl fits
      exact regWriteMove_operand (by decide) fits
  case faultWrite =>
    intro s n v rest hp hm
    exact step_eq_faultMove hp hm
  case faultRead =>
    intro s n rest hp hm
    exact step_regRead (.inr hp) hm
  case busy =>
    intro s t hi hf e
    obtain ⟨-, -, blocked, -, -⟩ | ⟨k, -, -, -, rule⟩ := step_next_cases e
    · exact absurd blocked (not_or.mpr ⟨hi, hf⟩)
    · exact rule.host_eq

/-! ### The clock line -/

/-- R15: where the physical level of a line is known, it is the level last driven. -/
theorem lastDriven_of_knownLevel {h : List Event} {p : Pin} {v : Level} (known : knownLevel h p = some v) :
    lastDriven h p = some v := by
  induction h with
  | nil => cases known
  | cons e h ih =>
    cases e with
    | drive q w r =>
      by_cases hq : q = p
      · simp only [knownLevel, hq, if_true] at known
        split at known
        · simpa only [lastDriven, hq, if_true] using known
        · cases known
      · simp only [knownLevel, hq, if_false] at known
        simpa only [lastDriven, hq, if_false] using ih known
    | sample _ _ | memRead _ _ | memWrite _ _ | complete _ | fault _ => exact ih known

/-- R15: a line whose last drive was answered ok stands at the level last driven. -/
theorem physicalLevel_eq_lastDriven {s : State} {p : Pin} {v : Level} (known : knownLevel s.history p ≠ none)
    (driven : lastDriven s.history p = some v) : physicalLevel s p = v := by
  obtain ⟨w, hw⟩ := Option.ne_none_iff_exists'.mp known
  have same : some w = some v := (lastDriven_of_knownLevel hw).symm.trans driven
  rw [physicalLevel, hw, Option.getD_some]
  exact Option.some.inj same

/-- R109: outside a pulse the recorded level of SCK is high. -/
theorem Inv.sck_high {s : State} (inv : Inv s) (outside : s.phase ≠ .clkHigh) : s.sck = Level.high :=
  Bool.eq_true_of_not_eq_false fun low => outside (inv.clockExact.mp low)

/-- Settles O50: the level on record is high by the invariant, and where the physical level is known it is the one on record. -/
theorem clockRestsHigh : Obligations.ClockRestsHigh := by
  intro s inv outside
  have high : s.sck = Level.high := inv.sck_high outside
  refine ⟨high, fun known => ?_⟩
  exact (physicalLevel_eq_lastDriven known inv.sckRecorded).trans high

end Sys2Proof.Machine
end

section
/-! PROOF. Buffer memory (R50, R51, R57, R58, R103): what a step writes, which ranges a command is refused for, and what the
host reads back. -/

namespace Sys2Proof.Machine

/-! ### What a step writes -/

/-- R51, R103: of the rules of a command only STORE of a receiving operation writes, and it writes the byte RX_ADDR + word. -/
theorem StepOf.mem_cases {k : Instr} {s t : State} (rule : StepOf k s t) :
    t.mem = s.mem ∨
    (s.phase = .store ∧ receives k = true ∧ s.hasAddress (s.rxAddr + s.word) = true ∧
      t.mem = s.mem.write (s.rxAddr + s.word) s.rx) := by
  cases rule
  case store hp hr ha => exact .inr ⟨hp, hr, ha, rfl⟩
  all_goals exact .inl rfl

/-- Memory is kept, or one byte inside it is written (R50). -/
def WritesAtMostOneByte (s t : State) : Prop :=
  t.mem = s.mem ∨ ∃ (a : Nat) (v : Word), s.hasAddress a = true ∧ t.mem = s.mem.write a v

theorem StepOf.writesAtMostOneByte {k : Instr} {s t : State} (rule : StepOf k s t) : WritesAtMostOneByte s t := by
  obtain kept | ⟨-, -, inside, written⟩ := rule.mem_cases
  · exact .inl kept
  · exact .inr ⟨_, _, inside, written⟩

theorem issue_writesAtMostOneByte {c : Word} {s t : State} (e : issue c s = .next t) : WritesAtMostOneByte s t := by
  unfold issue at e
  split at e
  · exact (exec_next_iff.mp e).writesAtMostOneByte
  · cases e
    exact .inl rfl

/-- A write of a control register does not touch memory. -/
@[simp] theorem regWrite_mem (r : CtrlReg) (v : Nat) (s : State) : (regWrite r v s).mem = s.mem := by
  cases r <;> rfl

/-- A construction keeps memory, which is not the engine's (log 12). -/
@[simp] theorem reconstruct_mem (v : Variant) (s : State) : (reconstruct v s).mem = s.mem := by
  cases v <;> rfl

theorem idleMove_writesAtMostOneByte {m : HostMove} {s t : State} (e : idleMove m s = .next t) :
    WritesAtMostOneByte s t := by
  cases m with
  | regWrite n v =>
    obtain ⟨-, -, issued⟩ | ⟨-, rfl⟩ | ⟨-, -, rfl⟩ := regWriteMove_next e
    · exact issue_writesAtMostOneByte issued
    · exact .inl rfl
    · exact .inl (regWrite_mem _ _ _)
  | regRead n =>
    cases e
    exact .inl rfl
  | memWrite a v =>
    obtain ⟨inside, rfl⟩ := memWriteMove_next_iff.mp e
    exact .inr ⟨a, v, decide_eq_true inside, rfl⟩
  | memRead a =>
    obtain ⟨-, rfl⟩ := memReadMove_next_iff.mp e
    exact .inl rfl
  | construct v =>
    cases e
    exact .inl (reconstruct_mem v s)

/-- R160: no move in FAULT writes memory. -/
theorem faultMove_mem {m : HostMove} {s t : State} (e : faultMove m s = .next t) : t.mem = s.mem := by
  obtain ⟨-, -, -, rfl⟩ | ⟨-, -, rfl⟩ | ⟨v, -, rfl⟩ := faultMove_next_iff.mp e
  · rfl
  · rfl
  · exact reconstruct_mem v s

theorem hostMove_writesAtMostOneByte {m : HostMove} {s t : State} (e : hostMove m s = .next t) :
    WritesAtMostOneByte s t := by
  unfold hostMove at e
  split at e
  · exact .inl (faultMove_mem e)
  · exact idleMove_writesAtMostOneByte e

/-- A step of the machine writes at most one byte, be it a move of the host or a rule of R99. -/
theorem step_writesAtMostOneByte {s t : State} (e : step s = .next t) : WritesAtMostOneByte s t := by
  obtain ⟨m, rest, -, -, moved⟩ | ⟨k, -, -, -, rule⟩ := step_next_cases e
  · have wrote := hostMove_writesAtMostOneByte moved
    exact wrote
  · exact rule.writesAtMostOneByte

/-- Settles O4: a step writes at most one byte, and a write keeps the canonical form. -/
theorem stepKeepsMemoryCanonical : Obligations.StepKeepsMemoryCanonical := by
  intro s t canonical e
  obtain kept | ⟨a, v, -, written⟩ := step_writesAtMostOneByte e
  · rw [kept]
    exact canonical
  · rw [written]
    exact Memory.wf_write canonical a v

/-- R95: the operations that write no memory are those that do not receive. -/
theorem receives_eq_false_of_mem {k : Instr}
    (hk : k ∈ [Instr.fdWrite, .hdWrite, .fdFlush, .hdFlush, .hdTransfer, .hdTransferInPlace]) : receives k = false := by
  revert hk
  cases k <;> decide

/-- Settles O31: a step keeps memory, or it is the STORE of a receiving operation and writes the byte RX_ADDR + word. -/
theorem memoryUnchangedElsewhere : Obligations.MemoryUnchangedElsewhere := by
  intro k s t e
  obtain kept | ⟨hp, hr, -, written⟩ := (exec_next_iff.mp e).mem_cases
  · exact ⟨fun _ => kept, fun _ => kept, fun a _ => congrArg (·.read a) kept⟩
  · refine ⟨fun hk => ?_, fun other => absurd hp other, fun a ha => ?_⟩
    · exact absurd hr (Bool.eq_false_iff.mp (receives_eq_false_of_mem hk))
    · rw [written]
      exact Memory.read_write_other s.mem s.rx ha

/-! ### What a command is refused for -/

/-- R99, R165: in IDLE an operation whose length check holds is accepted or refused. -/
theorem exec_idle {k : Instr} {s : State} (hp : s.phase = .idle) (hl : lengthsAgree k s = true) :
    exec k s = accept k (firstPhase k) s := by
  cases k
  case fdTransfer =>
    have lengths : s.rxLen = s.txLen := of_decide_eq_true hl rfl
    simp only [exec, execFdTransfer, hp, lengths, ne_eq, not_true_eq_false, if_false, firstPhase]
  all_goals
    simp only [exec, execFdRead, execFdWrite, execFdTransferInPlace, execFdFlush, execHdRead, execHdWrite, execHdTransfer,
      execHdTransferInPlace, execHdFlush, hp, firstPhase]

theorem exec_refused {k : Instr} {s : State} {r : Refusal} (hp : s.phase = .idle) (hl : lengthsAgree k s = true)
    (hr : refusalOf k s = some r) : exec k s = .refused r := by
  rw [exec_idle hp hl, accept, hr]

/-- R162: only fd.transfer has a length check. -/
theorem lengthsAgree_of_ne {k : Instr} (hk : k ≠ .fdTransfer) (s : State) : lengthsAgree k s = true :=
  decide_eq_true fun h => absurd h hk

theorem lengthsAgree_of_eq (k : Instr) {s : State} (h : s.rxLen = s.txLen) : lengthsAgree k s = true :=
  decide_eq_true fun _ => h

/-- R57: a range an operation uses reaches outside memory, computed without wrap. -/
def RangeOutside (k : Instr) (s : State) : Prop :=
  (usesRx k = true ∧ 2 ^ s.params.addrW < s.rxAddr + s.rxLen) ∨
  (usesTx k = true ∧ 2 ^ s.params.addrW < s.txAddr + s.txLen)

theorem rangeCheck_iff {k : Instr} {s : State} :
    ((usesRx k && outside s s.rxAddr s.rxLen) || (usesTx k && outside s s.txAddr s.txLen)) = true ↔ RangeOutside k s := by
  simp only [RangeOutside, outside, Bool.or_eq_true, Bool.and_eq_true, decide_eq_true_eq]

theorem refusalOf_of_rangeOutside {k : Instr} {s : State} (h : RangeOutside k s) :
    refusalOf k s = some .rangeOutsideMemory :=
  if_pos (rangeCheck_iff.mpr h)

/-- R58, R165: with both ranges inside memory, a shared address is what fd.transfer is refused for. -/
theorem refusalOf_of_sharedAddress {s : State} {a : Nat} (inside : ¬ RangeOutside .fdTransfer s)
    (inRx : s.rxAddr ≤ a ∧ a < s.rxAddr + s.rxLen) (inTx : s.txAddr ≤ a ∧ a < s.txAddr + s.txLen) :
    refusalOf .fdTransfer s = some .rangesOverlap := by
  have shared : overlap s.rxAddr s.rxLen s.txAddr s.txLen = true := by
    simp only [overlap, Bool.and_eq_true, decide_eq_true_eq]
    omega
  exact (if_neg (mt rangeCheck_iff.mp inside)).trans (if_pos shared)

/-- Settles O13: each operation passes its length check and uses the range that reaches outside memory. -/
theorem rangeOutsideMemoryIsRefused : Obligations.RangeOutsideMemoryIsRefused := by
  refine ⟨?rx, ?tx, ?both⟩
  case rx =>
    intro k s hk hp outside
    obtain ⟨notTransfer, uses⟩ : k ≠ .fdTransfer ∧ usesRx k = true := by
      revert hk
      cases k <;> decide
    exact exec_refused hp (lengthsAgree_of_ne notTransfer s) (refusalOf_of_rangeOutside (.inl ⟨uses, outside⟩))
  case tx =>
    intro k s hk hp outside
    obtain ⟨notTransfer, uses⟩ : k ≠ .fdTransfer ∧ usesTx k = true := by
      revert hk
      cases k <;> decide
    exact exec_refused hp (lengthsAgree_of_ne notTransfer s) (refusalOf_of_rangeOutside (.inr ⟨uses, outside⟩))
  case both =>
    intro s hp lengths outside
    exact exec_refused hp (lengthsAgree_of_eq _ lengths)
      (refusalOf_of_rangeOutside (outside.imp (⟨rfl, ·⟩) (⟨rfl, ·⟩)))

/-- Settles O14: neither range is outside memory, so the shared address is the check that applies. -/
theorem sharedAddressIsRefused : Obligations.SharedAddressIsRefused := by
  rintro s hp lengths rxInside txInside ⟨a, inRx, inTx⟩
  have inside : ¬ RangeOutside .fdTransfer s := by
    rintro (⟨-, outside⟩ | ⟨-, outside⟩)
    · exact absurd rxInside (Nat.not_le.mpr outside)
    · exact absurd txInside (Nat.not_le.mpr outside)
  exact exec_refused hp (lengthsAgree_of_eq _ lengths) (refusalOf_of_sharedAddress inside inRx inTx)

/-! ### What the host reads back -/

/-- R50, R62: a write of a byte by the host in IDLE changes that byte and nothing else. -/
theorem step_memWrite {s : State} {a : Nat} {v : Word} {rest : List HostMove} (hp : s.phase = .idle)
    (hm : s.hostMoves = .memWrite a v :: rest) (inside : a < 2 ^ s.params.addrW) :
    step s = .next { s with hostMoves := rest, mem := s.mem.write a v } :=
  (step_eq_idleMove hp hm).trans (memWriteMove_next_iff.mpr ⟨inside, rfl⟩)

/-- R50, R62: a read of a byte by the host in IDLE gives it the byte and changes nothing else. -/
theorem step_memRead {s : State} {a : Nat} {rest : List HostMove} (hp : s.phase = .idle)
    (hm : s.hostMoves = .memRead a :: rest) (inside : a < 2 ^ s.params.addrW) :
    step s = .next { s with hostMoves := rest, hostReads := (s.mem.read a).toNat :: s.hostReads } :=
  (step_eq_idleMove hp hm).trans (memReadMove_next_iff.mpr ⟨inside, rfl⟩)

theorem run_two_of_next {s t u : State} (first : step s = .next t) (second : step t = .next u) : run 2 s = .next u := by
  simp only [run, first, second]

/-- R50: a byte after a write, by whether it is the one written. -/
theorem Memory.read_write (m : Memory) (a b : Nat) (v : Word) :
    (m.write a v).read b = if b = a then v else m.read b := by
  split
  · next same => rw [same, Memory.read_write_same]
  · next other => exact Memory.read_write_other m v other

/-- Settles O36: two steps of the host, and the read after a write. -/
theorem hostReadsWhatItWrote : Obligations.HostReadsWhatItWrote := by
  intro s a b v rest hp hm aInside bInside
  have wrote := step_memWrite hp hm aInside
  refine ⟨_, run_two_of_next wrote (step_memRead hp rfl bInside), rfl, ?_⟩
  show ((s.mem.write a v).read b).toNat :: s.hostReads = _
  rw [Memory.read_write, apply_ite BitVec.toNat]

end Sys2Proof.Machine
end

section
/-! PROOF. The encoding (R73, R74): the key of an operation, and that the decoder reads exactly those keys. -/

namespace Sys2Proof.Machine

/-! ### Keys -/

/-- R73: KEY[8] stands above the CMD byte. -/
theorem keyOf_toNat (v : Variant) (c : Word) : (keyOf v c).toNat = 256 * (bitOfVariant v).toNat + c.toNat := by
  unfold keyOf
  rw [BitVec.toNat_append, BitVec.toNat_ofBool, ← Nat.shiftLeft_add_eq_or_of_lt c.isLt, Nat.shiftLeft_eq, Nat.mul_comm]

/-- R71: RSVD = 0, so the CMD byte is the code. -/
theorem cmd_toNat (i : Instr) : i.cmd.toNat = i.opcode.toNat := by
  rw [Instr.cmd, BitVec.toNat_append, BitVec.toNat_ofNat, Nat.zero_mod, Nat.zero_shiftLeft, Nat.zero_or]

/-- The laws of the encoding, for every operation. -/
theorem encoding_laws (i : Instr) : Laws.Encoding.Statement i := by
  cases i with
  | fdRead => exact Laws.Encoding.fdRead
  | fdWrite => exact Laws.Encoding.fdWrite
  | fdTransfer => exact Laws.Encoding.fdTransfer
  | fdTransferInPlace => exact Laws.Encoding.fdTransferInPlace
  | fdFlush => exact Laws.Encoding.fdFlush
  | hdRead => exact Laws.Encoding.hdRead
  | hdWrite => exact Laws.Encoding.hdWrite
  | hdTransfer => exact Laws.Encoding.hdTransfer
  | hdTransferInPlace => exact Laws.Encoding.hdTransferInPlace
  | hdFlush => exact Laws.Encoding.hdFlush

theorem decodeKey_encode (i : Instr) : decodeKey (encode i) = .op i :=
  (encoding_laws i).1

/-- R72, R74: an operation is decoded from its own variant and code only. -/
theorem fields_of_decodeOp {v : Variant} {op : BitVec 3} {i : Instr} (h : decodeOp v op = .op i) :
    i.variant = v ∧ i.opcode = op := by
  revert h
  revert op
  cases v <;> cases i <;> decide

@[simp] theorem bitOfVariant_variantOfBit (b : Bool) : bitOfVariant (variantOfBit b) = b := by
  cases b <;> rfl

/-- R71, R73: a key is its three fields VARIANT, RSVD and OP. -/
theorem keyOf_fields (key : BitVec 9) :
    keyOf (variantOfBit (key.getLsbD 8)) (key.extractLsb' 3 5 ++ key.extractLsb' 0 3) = key := by
  have cmd : key.extractLsb' 3 5 ++ key.extractLsb' 0 3 = key.extractLsb' 0 8 :=
    BitVec.extractLsb'_append_extractLsb'_eq_extractLsb' rfl
  have variant : BitVec.ofBool (key.getLsbD 8) = key.extractLsb' 8 1 := by
    ext j hj
    obtain rfl : j = 0 := by omega
    simp [BitVec.getLsbD_eq_getElem]
  have whole : key.extractLsb' 8 1 ++ key.extractLsb' 0 8 = key.extractLsb' 0 9 :=
    BitVec.extractLsb'_append_extractLsb'_eq_extractLsb' rfl
  rw [keyOf, bitOfVariant_variantOfBit, cmd, variant, whole, BitVec.extractLsb'_eq_self]

/-- R74: a key that decodes has RSVD = 0, and the variant and the code of its operation. -/
theorem encode_of_decodeKey {key : BitVec 9} {i : Instr} (h : decodeKey key = .op i) : encode i = key := by
  unfold decodeKey at h
  split at h
  · cases h
  · next reserved =>
    obtain ⟨variant, opcode⟩ := fields_of_decodeOp h
    rw [encode, Instr.cmd, variant, opcode, ← of_not_not reserved, keyOf_fields]

/-- Settles O6: the laws of the encoding one way, and the fields of a key that decodes the other. -/
theorem decodeUndoesEncode : Obligations.DecodeUndoesEncode :=
  ⟨decodeKey_encode, fun _ _ => encode_of_decodeKey⟩

/-- R73: the keys of the ten operations. -/
theorem encode_mem_table (i : Instr) :
    encode i ∈ [0x001#9, 0x002#9, 0x003#9, 0x004#9, 0x005#9, 0x101#9, 0x102#9, 0x103#9, 0x104#9, 0x105#9] := by
  cases i <;> decide

/-- Settles O5: the table lists the operations' keys, and a key that decodes is one of them. -/
theorem decodeTableIsExact : Obligations.DecodeTableIsExact := by
  refine ⟨decodeKey_encode .fdRead, decodeKey_encode .fdWrite, decodeKey_encode .fdTransfer,
    decodeKey_encode .fdTransferInPlace, decodeKey_encode .fdFlush, decodeKey_encode .hdRead, decodeKey_encode .hdWrite,
    decodeKey_encode .hdTransfer, decodeKey_encode .hdTransferInPlace, decodeKey_encode .hdFlush, ?keys, ?others⟩
  case keys =>
    intro c
    exact ⟨(keyOf_toNat .fd c).trans (Nat.zero_add _), keyOf_toNat .hd c⟩
  case others =>
    intro key unlisted
    cases decoded : decodeKey key with
    | op i =>
      rw [← encode_of_decodeKey decoded] at unlisted
      exact absurd (encode_mem_table i) unlisted
    | reject _ => rfl

end Sys2Proof.Machine
end

section
/-! PROOF. How a command is issued (R75, R76, R80, R82): a write of CMD runs it, a placed key and an assembled line do so with
their operands, and no step of it writes an operand register. -/

namespace Sys2Proof.Machine

/-! ### A write of CMD -/

theorem issue_of_decode {c : Word} {s : State} {i : Instr} (decoded : decodeKey (keyOf s.params.variant c) = .op i) :
    issue c s = exec i s := by
  simp only [issue, decoded]

/-- Settles O7: the host's move is a write of CMD, which issues the operation that the key decodes to. -/
theorem stepRunsIssuedCommand : Obligations.StepRunsIssuedCommand := by
  intro s c rest i hp hm decoded
  calc step s = regWriteMove .cmd c.toNat { s with hostMoves := rest } := step_eq_idleMove hp hm
    _ = issue (BitVec.ofNat 8 c.toNat) { s with hostMoves := rest } := regWriteMove_cmd c.isLt
    _ = issue c { s with hostMoves := rest } := by rw [BitVec.ofNat_toNat, BitVec.setWidth_eq]
    _ = exec i { s with hostMoves := rest } := issue_of_decode decoded

/-- R82: a write of an operation's CMD byte, to an engine of its variant in IDLE, runs the operation. -/
theorem step_cmd {s : State} {i : Instr} {rest : List HostMove} (hp : s.phase = .idle)
    (variant : i.variant = s.params.variant) (hm : s.hostMoves = .regWrite 3#3 i.cmd.toNat :: rest) :
    step s = exec i { s with hostMoves := rest } := by
  refine stepRunsIssuedCommand s i.cmd rest i hp hm ?_
  rw [← variant]
  exact decodeKey_encode i

/-! ### A placed key (log 8) -/

/-- On an engine of the operation's variant in IDLE, placing its key adds the write of its CMD byte and nothing else. -/
theorem withFetchWord_encode {s : State} {i : Instr} (hp : s.phase = .idle) (variant : i.variant = s.params.variant) :
    s.withFetchWord 16 (encode i).toNat = { s with hostMoves := .regWrite 3#3 i.cmd.toNat :: s.hostMoves } := by
  obtain ⟨-, keyVariant, keyCmd, -, -⟩ := encoding_laws i
  have key : (encode i).toNat % 2 ^ 16 = (encode i).toNat := Nat.mod_eq_of_lt (by omega)
  have cmd : (encode i).toNat % 256 = i.cmd.toNat := congrArg BitVec.toNat keyCmd
  have ready : readyFor (variantOfBit ((encode i).toNat.testBit 8)) s = s := by
    rw [BitVec.testBit_toNat, keyVariant]
    exact if_pos ⟨variant.symm, hp⟩
  simp only [State.withFetchWord, key, cmd, ready]

/-- Settles O9: the placed key is a write of the operation's CMD byte, and the next step runs it. -/
theorem placedCommandRunsNext : Obligations.PlacedCommandRunsNext := by
  intro s i hp wf
  have variant : i.variant = s.params.variant := of_decide_eq_true wf
  rw [withFetchWord_encode hp variant]
  exact step_cmd (s := { s with hostMoves := _ :: s.hostMoves }) hp variant rfl

/-! ### An assembled line -/

/-- R72, R80: a line stands for an operation of the engine it runs on. -/
theorem AsmLine.instr_variant (l : AsmLine) (v : Variant) : (l.instr v).variant = v := by
  cases l <;> cases v <;> rfl

/-- R72, R80: a line has the same code on both variants. -/
theorem AsmLine.instr_opcode (l : AsmLine) (v : Variant) : (l.instr v).opcode = (l.instr .fd).opcode := by
  cases l <;> cases v <;> rfl

/-- R34 to R37: a run that starts in IDLE with a fitting write of an operand register sets it, and goes on. -/
theorem run_operandWrite {s : State} {r : BitVec 3} {v k : Nat} {rest : List HostMove} (hp : s.phase = .idle)
    (hm : s.hostMoves = .regWrite r v :: rest) (hr : ctrlReg r ∈ [CtrlReg.rxAddr, .rxLen, .txAddr, .txLen])
    (fits : v < 2 ^ regWidth s.params (ctrlReg r)) :
    run (k + 1) s = run k (regWrite (ctrlReg r) v { s with hostMoves := rest }) := by
  have wrote : step s = .next (regWrite (ctrlReg r) v { s with hostMoves := rest }) :=
    (step_eq_idleMove hp hm).trans (regWriteMove_operand hr fits)
  simp only [run, wrote]

/-- R80, R82: the last write of a line runs its operation. -/
theorem run_lineCommand (l : AsmLine) {s : State} {rest : List HostMove} (hp : s.phase = .idle)
    (hm : s.hostMoves = .regWrite 3#3 (l.instr .fd).opcode.toNat :: rest) :
    run 1 s = exec (l.instr s.params.variant) { s with hostMoves := rest } := by
  rw [← l.instr_opcode s.params.variant, ← cmd_toNat] at hm
  rw [← step_cmd hp (l.instr_variant _) hm]
  simp only [run]
  cases step s <;> rfl

/-- Settles O40: each operand write sets its register, and the write of CMD runs the operation. -/
theorem assembledLineIssuesItsCommand : Obligations.AssembledLineIssuesItsCommand := by
  intro s l rest hp wf hm
  cases l with
  | read a n | write a n | transferInPlace a n =>
    obtain ⟨addr, len⟩ : a < 2 ^ s.params.addrW ∧ n < 2 ^ s.params.lenW := by simpa [AsmLine.wf] using wf
    calc run 3 s
      _ = run 2 _ := run_operandWrite hp hm (by decide) addr
      _ = run 1 _ := run_operandWrite hp rfl (by decide) len
      _ = _ := run_lineCommand _ hp rfl
  | transfer ra rn ta tn =>
    obtain ⟨⟨⟨rxAddr, rxLen⟩, txAddr⟩, txLen⟩ : ((ra < 2 ^ s.params.addrW ∧ rn < 2 ^ s.params.lenW) ∧
        ta < 2 ^ s.params.addrW) ∧ tn < 2 ^ s.params.lenW := by simpa [AsmLine.wf] using wf
    calc run 5 s
      _ = run 4 _ := run_operandWrite hp hm (by decide) rxAddr
      _ = run 3 _ := run_operandWrite hp rfl (by decide) rxLen
      _ = run 2 _ := run_operandWrite hp rfl (by decide) txAddr
      _ = run 1 _ := run_operandWrite hp rfl (by decide) txLen
      _ = _ := run_lineCommand _ hp rfl
  | flush => exact run_lineCommand _ hp hm

/-! ### The operand registers during a command -/

/-- R75, R76: no rule of a command writes an operand register. -/
theorem StepOf.operandRegisters_eq {k : Instr} {s t : State} (rule : StepOf k s t) :
    t.rxAddr = s.rxAddr ∧ t.rxLen = s.rxLen ∧ t.txAddr = s.txAddr ∧ t.txLen = s.txLen := by
  cases rule <;> exact ⟨rfl, rfl, rfl, rfl⟩

/-- Settles O30: no rule of R99 writes the parameters, an operand register, or what stands with the host. -/
theorem operandRegistersUnchanged : Obligations.OperandRegistersUnchanged := by
  intro k s t e
  have rule := exec_next_iff.mp e
  obtain ⟨rxAddr, rxLen, txAddr, txLen⟩ := rule.operandRegisters_eq
  obtain ⟨hostMoves, hostReads⟩ := rule.host_eq
  exact ⟨rule.params_eq, rxAddr, rxLen, txAddr, txLen, hostMoves, hostReads⟩

end Sys2Proof.Machine
end

section
/-! PROOF. A whole command (R98, R104, R107): bit cell by bit cell and word by word, the phases of R99 go through the
loops of R104, in the number of steps R107 gives. -/

namespace Sys2Proof.Machine

/-! ### Runs -/

theorem run_one_of_step {s t : State} (e : step s = .next t) : run 1 s = .next t := by
  simp only [run, e]

/-- Runs compose. -/
theorem run_trans {m n : Nat} {s t u : State} (first : run m s = .next t) (second : run n t = .next u) :
    run (m + n) s = .next u :=
  (run_add_of_next first).trans second

/-! ### A command on the way -/

/-- Command `k` is latched and passed its acceptance checks (R165): what makes each of its steps possible. -/
structure UnderWay (k : Instr) (s : State) : Prop where
  onCommand : OnCommand k s
  passed    : refusalOf k s = none
  lengths   : lengthsAgree k s = true

/-- A command stays on its way while the latch, the parameters and the operands are kept. -/
theorem UnderWay.of_eq {k : Instr} {s t : State} (way : UnderWay k s) (op : t.op = s.op) (params : t.params = s.params)
    (rxAddr : t.rxAddr = s.rxAddr) (rxLen : t.rxLen = s.rxLen) (txAddr : t.txAddr = s.txAddr)
    (txLen : t.txLen = s.txLen) : UnderWay k t := by
  obtain ⟨-, -, refusal, lengths⟩ := operands_congr (k := k) params rxAddr rxLen txAddr txLen
  exact ⟨⟨params ▸ way.onCommand.variant_eq, op ▸ way.onCommand.op_eq⟩, refusal ▸ way.passed,
    lengths ▸ way.lengths⟩

theorem UnderWay.after_bitCells {k : Instr} {s : State} (way : UnderWay k s) (n : Nat) :
    UnderWay k (bitCells k n s) := by
  obtain ⟨-, -, params, op, rxAddr, rxLen, txAddr, txLen, -, -⟩ := bitCells_frame k n s
  exact way.of_eq op params rxAddr rxLen txAddr txLen

theorem UnderWay.after_wordLoop {k : Instr} {s : State} (way : UnderWay k s) : UnderWay k (wordLoop k s) := by
  obtain ⟨-, params, op, rxAddr, rxLen, txAddr, txLen⟩ := wordLoop_frame k s
  exact way.of_eq op params rxAddr rxLen txAddr txLen

theorem UnderWay.at_phase {k : Instr} {s : State} (way : UnderWay k s) (ph : Phase) : UnderWay k (toPhase ph s) :=
  way.of_eq rfl rfl rfl rfl rfl rfl

theorem UnderWay.after_drive {k : Instr} {s : State} (way : UnderWay k s) (p : Pin) (v : Level) :
    UnderWay k (drive p v s) :=
  way.of_eq rfl rfl rfl rfl rfl rfl

/-- A rule of R99 is a step of the machine while the command is on its way. -/
theorem UnderWay.run_rule {k : Instr} {ph : Phase} {s t : State} (way : UnderWay k s) (rule : StepOf k (toPhase ph s) t)
    (busy : ph ≠ .idle ∧ ph ≠ .fault := by decide) : run 1 (toPhase ph s) = .next t :=
  run_one_of_step (step_of_stepOf (way.at_phase ph).onCommand busy.1 busy.2 rule)

/-- R57, R165: the ranges an accepted command uses lie inside memory. -/
theorem not_rangeOutside_of_passed {k : Instr} {s : State} (passed : refusalOf k s = none) : ¬ RangeOutside k s := by
  intro outside
  rw [refusalOf_of_rangeOutside outside] at passed
  cases passed

/-- R51, R75: a receiving command stores into the RX range. -/
theorem destination_of_receives {k : Instr} (s : State) (hr : receives k = true) :
    usesRx k = true ∧ lengthOf k s = s.rxLen := by
  revert hr
  cases k <;> simp [receives, usesRx, lengthOf]

/-- R51, R102, R125: the words a transmitting command sends fill the RX range or the TX range. -/
theorem source_of_transmits {k : Instr} {s : State} (ht : transmits k = true) (hl : lengthsAgree k s = true) :
    (usesRx k = true ∧ srcOf k s = s.rxAddr ∧ lengthOf k s = s.rxLen) ∨
    (usesTx k = true ∧ srcOf k s = s.txAddr ∧ lengthOf k s = s.txLen) := by
  have lengths : k = .fdTransfer → s.rxLen = s.txLen := of_decide_eq_true hl
  revert ht lengths
  cases k <;> simp +contextual [transmits, usesRx, usesTx, srcOf, lengthOf]

/-- R57: every word a receiving command stores has an address. -/
theorem UnderWay.hasAddress_store {k : Instr} {s : State} (way : UnderWay k s) (hr : receives k = true)
    (hw : s.word < lengthOf k s) : s.hasAddress (s.rxAddr + s.word) = true := by
  obtain ⟨uses, length⟩ := destination_of_receives s hr
  have inside := not_or.mp (not_rangeOutside_of_passed way.passed)
  have range := not_and.mp inside.1 uses
  exact decide_eq_true (by omega)

/-- R57: every word a transmitting command sends has an address. -/
theorem UnderWay.hasAddress_load {k : Instr} {s : State} (way : UnderWay k s) (ht : transmits k = true)
    (hw : s.word < lengthOf k s) : s.hasAddress (srcOf k s + s.word) = true := by
  have inside := not_or.mp (not_rangeOutside_of_passed way.passed)
  obtain ⟨uses, source, length⟩ | ⟨uses, source, length⟩ := source_of_transmits ht way.lengths
  · have range := not_and.mp inside.1 uses
    exact decide_eq_true (by omega)
  · have range := not_and.mp inside.2 uses
    exact decide_eq_true (by omega)

/-! ### A bit cell (R91, R92, R99) -/

/-- R99: the phase a bit cell starts in. -/
def cellPhase (k : Instr) : Phase := if transmits k then .drive else .clkLow

/-- R92: the drive a bit cell of a transmitting command starts with. -/
def driveBit (k : Instr) (s : State) : State := if transmits k then drive (dout k) (outBit s.tx s.bit) s else s

/-- R92: the sample a bit cell of a receiving command ends with. -/
def sampleBit (k : Instr) (s : State) : State := if receives k then sampleShift (din k) s else s

/-- R92: a bit cell is the drive, the pulse and the sample. -/
theorem bitCell_eq (k : Instr) (s : State) :
    bitCell k s = endCell (sampleBit k (drive .sck Level.high (drive .sck Level.low (driveBit k s)))) := rfl

/-- R99 `next()`: where the machine stands after a bit cell that left the state `s`. -/
def afterCell (k : Instr) (s : State) : State :=
  if s.bit < 8 then toPhase (cellPhase k) s
  else if receives k then toPhase .store s
  else toPhase .load (endWord s)

/-- R99: the number of steps a bit cell takes. -/
def cellSteps (k : Instr) : Nat := (transmits k).toNat + 1 + (1 + (receives k).toNat)

theorem UnderWay.after_driveBit {k : Instr} {s : State} (way : UnderWay k s) : UnderWay k (driveBit k s) := by
  unfold driveBit
  split
  · exact way.after_drive _ _
  · exact way

/-- A cell reaches its pulse, by a DRIVE step where it transmits. -/
theorem UnderWay.run_driveBit {k : Instr} {s : State} (way : UnderWay k s) :
    run (transmits k).toNat (toPhase (cellPhase k) s) = .next (toPhase .clkLow (driveBit k s)) := by
  cases ht : transmits k with
  | true =>
    simp only [cellPhase, driveBit, ht, if_true, Bool.toNat_true]
    exact way.run_rule (.drive rfl ht)
  | false => simp [cellPhase, driveBit, ht, run]

/-- The falling edge. -/
theorem UnderWay.run_fall {k : Instr} {s : State} (way : UnderWay k s) (moves : movesData k = true) :
    run 1 (toPhase .clkLow s) = .next (toPhase .clkHigh (drive .sck Level.low s)) :=
  way.run_rule (.clkLow rfl moves)

/-- The rising edge and, where the command receives, the sample end the cell. -/
theorem UnderWay.run_rise {k : Instr} {s : State} (way : UnderWay k s) (moves : movesData k = true) :
    run (1 + (receives k).toNat) (toPhase .clkHigh s) =
      .next (afterCell k (endCell (sampleBit k (drive .sck Level.high s)))) := by
  cases hr : receives k with
  | true =>
    have risen : UnderWay k (drive .sck Level.high s) := way.after_drive _ _
    refine run_trans (way.run_rule (.clkHighRx rfl hr)) ?_
    by_cases more : s.bit + 1 < 8
    · simpa [afterCell, sampleBit, hr, more, cellPhase] using risen.run_rule (.sampleCell rfl hr more)
    · simpa [afterCell, sampleBit, hr, more] using risen.run_rule (.sampleWord rfl hr more)
  | false =>
    have ht : transmits k = true := by simpa [movesData, hr] using moves
    by_cases more : s.bit + 1 < 8
    · simpa [afterCell, sampleBit, hr, more, cellPhase, ht] using way.run_rule (.clkHighCell rfl ht hr more)
    · simpa [afterCell, sampleBit, hr, more] using way.run_rule (.clkHighWord rfl ht hr more)

/-- The phases of a bit cell do what R92 says. -/
theorem UnderWay.run_bitCell {k : Instr} {s : State} (way : UnderWay k s) (moves : movesData k = true) :
    run (cellSteps k) (toPhase (cellPhase k) s) = .next (afterCell k (bitCell k s)) := by
  have low : UnderWay k (drive .sck Level.low (driveBit k s)) := way.after_driveBit.after_drive _ _
  exact run_trans (run_trans way.run_driveBit (way.after_driveBit.run_fall moves)) (low.run_rise moves)

theorem UnderWay.after_bitCell {k : Instr} {s : State} (way : UnderWay k s) : UnderWay k (bitCell k s) :=
  way.after_bitCells 1

/-- The cells left in a word, one after the other. -/
theorem UnderWay.run_bitCells {k : Instr} (moves : movesData k = true) (n : Nat) {s : State} (way : UnderWay k s)
    (room : s.bit + n ≤ 8) : run (n * cellSteps k) (afterCell k s) = .next (afterCell k (bitCells k n s)) := by
  induction n generalizing s with
  | zero => simp only [Nat.zero_mul, run, bitCells]
  | succ n ih =>
    have start : afterCell k s = toPhase (cellPhase k) s := if_pos (by omega)
    obtain ⟨bit, -⟩ := bitCell_frame k s
    rw [Nat.succ_mul, Nat.add_comm, start]
    exact run_trans (way.run_bitCell moves) (ih way.after_bitCell (by omega))

/-! ### A word (R99, R101 to R104) -/

/-- R101, R102: the start of a word, with the read of the outgoing word where the command transmits. -/
def loadWord (k : Instr) (s : State) : State :=
  if transmits k then loadTx (srcOf k s + s.word) (startWord s) else startWord s

/-- R103: the store at the end of a word where the command receives. -/
def storeWord (k : Instr) (s : State) : State := if receives k then storeRx (s.rxAddr + s.word) s else s

@[simp] theorem loadWord_bit (k : Instr) (s : State) : (loadWord k s).bit = 0 := by
  unfold loadWord
  split <;> rfl

/-- The start of a word keeps what a word is about. -/
theorem loadWord_frame (k : Instr) (s : State) :
    (loadWord k s).word = s.word ∧ (loadWord k s).op = s.op ∧ (loadWord k s).params = s.params ∧
      (loadWord k s).rxAddr = s.rxAddr ∧ (loadWord k s).rxLen = s.rxLen ∧ (loadWord k s).txAddr = s.txAddr ∧
      (loadWord k s).txLen = s.txLen := by
  unfold loadWord
  split <;> exact ⟨rfl, rfl, rfl, rfl, rfl, rfl, rfl⟩

/-- R104: a word is its start, eight bit cells and its store. -/
theorem wordLoop_eq (k : Instr) (s : State) :
    wordLoop k s = endWord (storeWord k (bitCells k 8 (loadWord k s))) := by
  obtain ⟨-, word, -, -, rxAddr, -⟩ := bitCells_frame k 8 (loadWord k s)
  obtain ⟨word', -, -, rxAddr', -⟩ := loadWord_frame k s
  rw [storeWord, word, rxAddr, word', rxAddr']
  rfl

/-- R99: the number of steps a word takes. -/
def wordSteps (k : Instr) : Nat := 1 + 8 * cellSteps k + (receives k).toNat

/-- LOAD starts a word that is not past the end. -/
theorem UnderWay.run_loadWord {k : Instr} {s : State} (way : UnderWay k s) (moves : movesData k = true)
    (hw : s.word < lengthOf k s) : run 1 (toPhase .load s) = .next (afterCell k (loadWord k s)) := by
  have notEnd : (toPhase .load s).word ≠ lengthOf k (toPhase .load s) := by
    simpa using Nat.ne_of_lt hw
  rw [afterCell, loadWord_bit, if_pos (by decide)]
  cases ht : transmits k with
  | true =>
    have inside : (toPhase .load s).hasAddress (srcOf k (toPhase .load s) + (toPhase .load s).word) = true :=
      (way.at_phase _).hasAddress_load ht (by simpa using hw)
    simpa [cellPhase, loadWord, ht] using way.run_rule (.loadTx rfl ht notEnd inside)
  | false =>
    have hr : receives k = true := by simpa [movesData, ht] using moves
    simpa [cellPhase, loadWord, ht] using way.run_rule (.loadRx rfl hr ht notEnd)

/-- After the eighth cell a word is stored, where the command receives, and counted. -/
theorem UnderWay.run_storeWord {k : Instr} {s : State} (way : UnderWay k s) (hw : s.word < lengthOf k s)
    (full : s.bit = 8) : run (receives k).toNat (afterCell k s) = .next (toPhase .load (endWord (storeWord k s))) := by
  rw [afterCell, full, if_neg (by decide)]
  cases hr : receives k with
  | true =>
    have inside : (toPhase .store s).hasAddress ((toPhase .store s).rxAddr + (toPhase .store s).word) = true :=
      (way.at_phase _).hasAddress_store hr (by simpa using hw)
    simpa [storeWord, hr] using way.run_rule (.store rfl hr inside)
  | false => simp [storeWord, hr, run]

/-- The phases of a word do what R104 says. -/
theorem UnderWay.run_wordLoop {k : Instr} {s : State} (way : UnderWay k s) (moves : movesData k = true)
    (hw : s.word < lengthOf k s) : run (wordSteps k) (toPhase .load s) = .next (toPhase .load (wordLoop k s)) := by
  obtain ⟨word, op, params, rxAddr, rxLen, txAddr, txLen⟩ := loadWord_frame k s
  have loaded : UnderWay k (loadWord k s) := way.of_eq op params rxAddr rxLen txAddr txLen
  obtain ⟨bit', word', params', -, rxAddr', rxLen', txAddr', txLen', -⟩ := bitCells_frame k 8 (loadWord k s)
  obtain ⟨length, -⟩ := operands_congr (k := k) (params'.trans params) (rxAddr'.trans rxAddr) (rxLen'.trans rxLen)
    (txAddr'.trans txAddr) (txLen'.trans txLen)
  rw [wordLoop_eq]
  refine run_trans (run_trans (way.run_loadWord moves hw) (loaded.run_bitCells moves 8 (by simp))) ?_
  exact (loaded.after_bitCells 8).run_storeWord (by omega) (by simp [bit'])

/-- The words left in a buffer, one after the other. -/
theorem UnderWay.run_wordsLoop {k : Instr} (moves : movesData k = true) (n : Nat) {s : State} (way : UnderWay k s)
    (room : s.word + n ≤ lengthOf k s) :
    run (n * wordSteps k) (toPhase .load s) = .next (toPhase .load (wordsLoop k n s)) := by
  induction n generalizing s with
  | zero => simp only [Nat.zero_mul, run, wordsLoop]
  | succ n ih =>
    obtain ⟨word, params, -, rxAddr, rxLen, txAddr, txLen⟩ := wordLoop_frame k s
    obtain ⟨length, -⟩ := operands_congr (k := k) params rxAddr rxLen txAddr txLen
    rw [Nat.succ_mul, Nat.add_comm]
    exact run_trans (way.run_wordLoop moves (by omega)) (ih way.after_wordLoop (by omega))

/-! ### From acceptance to completion (R99, R104, R107) -/

theorem wordsLoop_frame (k : Instr) (n : Nat) (s : State) :
    (wordsLoop k n s).word = s.word + n ∧ (wordsLoop k n s).params = s.params ∧ (wordsLoop k n s).op = s.op ∧
      (wordsLoop k n s).rxAddr = s.rxAddr ∧ (wordsLoop k n s).rxLen = s.rxLen ∧ (wordsLoop k n s).txAddr = s.txAddr ∧
      (wordsLoop k n s).txLen = s.txLen := by
  induction n generalizing s with
  | zero => exact ⟨rfl, rfl, rfl, rfl, rfl, rfl, rfl⟩
  | succ n ih =>
    have rest := ih (wordLoop k s)
    have first := wordLoop_frame k s
    simp only [wordsLoop]
    simp_all
    omega

/-- R140: what stands between acceptance and the first word, the PREP drive of hd.read. -/
def prepare (k : Instr) (s : State) : State := if k = .hdRead then drive .sda Level.high s else s

/-- R104: a command is its acceptance, its words and its completion. -/
theorem bitloop_eq (k : Instr) (s : State) :
    bitloop k s = completeCommand (wordsLoop k (lengthOf k s) (prepare k (accepted k s))) := rfl

/-- R107, with the accept step left out: PREP, the words, the LOAD that finds the end, and DONE. -/
theorem stepCount_of_movesData {k : Instr} (moves : movesData k = true) (n : Nat) :
    stepCount k n - 1 = (decide (k = .hdRead)).toNat + n * wordSteps k + 1 + 1 := by
  revert moves
  cases k <;> simp [movesData, transmits, receives, stepCount, wordSteps, cellSteps] <;> omega

theorem UnderWay.run_prepare {k : Instr} {s : State} (way : UnderWay k s) (moves : movesData k = true) :
    run (decide (k = .hdRead)).toNat (toPhase (firstPhase k) s) = .next (toPhase .load (prepare k s)) := by
  by_cases hk : k = .hdRead
  · subst hk
    exact way.run_rule (.prep rfl rfl)
  · have first : firstPhase k = .load := by
      revert moves hk
      cases k <;> decide
    simp [prepare, hk, first, run]

theorem UnderWay.run_done {k : Instr} {s : State} (way : UnderWay k s) :
    run 1 (toPhase .done s) = .next (completeCommand s) :=
  way.run_rule (.done rfl)

theorem UnderWay.run_loadEnd {k : Instr} {s : State} (way : UnderWay k s) (moves : movesData k = true)
    (hw : s.word = lengthOf k s) : run 1 (toPhase .load s) = .next (toPhase .done s) :=
  way.run_rule (.loadEnd rfl moves (by simpa using hw))

/-- An accepted command is on its way. -/
theorem underWay_accepted {k : Instr} {s : State} (wf : k.wf s.params.variant = true) (acc : Acceptable k s) :
    UnderWay k (accepted k s) := by
  obtain ⟨-, lengths, passed⟩ := acc
  exact ⟨⟨(of_decide_eq_true wf).symm, rfl⟩, by simpa using passed, by simpa using lengths⟩

theorem UnderWay.after_prepare {k : Instr} {s : State} (way : UnderWay k s) : UnderWay k (prepare k s) := by
  unfold prepare
  split
  · exact way.after_drive _ _
  · exact way

theorem UnderWay.after_wordsLoop {k : Instr} {s : State} (way : UnderWay k s) (n : Nat) :
    UnderWay k (wordsLoop k n s) := by
  obtain ⟨-, params, op, rxAddr, rxLen, txAddr, txLen⟩ := wordsLoop_frame k n s
  exact way.of_eq op params rxAddr rxLen txAddr txLen

@[simp] theorem prepare_word (k : Instr) (s : State) : (prepare k s).word = s.word := by
  unfold prepare
  split <;> rfl

@[simp] theorem lengthOf_prepare (k : Instr) (s : State) : lengthOf k (prepare k s) = lengthOf k s := by
  unfold prepare
  split
  · exact lengthOf_drive _ _ _ _
  · rfl

@[simp] theorem lengthOf_wordsLoop (k : Instr) (n : Nat) (s : State) : lengthOf k (wordsLoop k n s) = lengthOf k s := by
  obtain ⟨-, params, -, rxAddr, rxLen, txAddr, txLen⟩ := wordsLoop_frame k n s
  exact (operands_congr params rxAddr rxLen txAddr txLen).1

/-- A command with bit cells runs through its words to its end. -/
theorem UnderWay.run_bitloop {k : Instr} {s : State} (way : UnderWay k (accepted k s)) (moves : movesData k = true) :
    run (stepCount k (lengthOf k s) - 1) (toPhase (firstPhase k) (accepted k s)) = .next (bitloop k s) := by
  have prepared : UnderWay k (prepare k (accepted k s)) := way.after_prepare
  have words := prepared.run_wordsLoop moves (lengthOf k s) (by simp)
  have sent : UnderWay k (wordsLoop k (lengthOf k s) (prepare k (accepted k s))) := prepared.after_wordsLoop _
  have atEnd : (wordsLoop k (lengthOf k s) (prepare k (accepted k s))).word = lengthOf k s := by
    simp [(wordsLoop_frame _ _ _).1]
  rw [stepCount_of_movesData moves, bitloop_eq]
  exact run_trans (run_trans (run_trans (way.run_prepare moves) words) (sent.run_loadEnd moves (by simp [atEnd])))
    sent.run_done

/-- R101, R95: a command without bit cells has no words. -/
theorem lengthOf_of_noCells {k : Instr} (noCells : movesData k = false) (s : State) : lengthOf k s = 0 := by
  revert noCells
  cases k <;> simp [movesData, transmits, receives, lengthOf]

/-- A command without bit cells only completes (R129, R144, R146, R148). -/
theorem UnderWay.run_bitloop_noCells {k : Instr} {s : State} (way : UnderWay k (accepted k s))
    (noCells : movesData k = false) :
    run (stepCount k (lengthOf k s) - 1) (toPhase (firstPhase k) (accepted k s)) = .next (bitloop k s) := by
  obtain ⟨first, steps, notRead⟩ : firstPhase k = .done ∧ stepCount k 0 = 2 ∧ k ≠ .hdRead := by
    revert noCells
    cases k <;> decide
  rw [bitloop_eq, lengthOf_of_noCells noCells, first, steps, prepare, if_neg notRead]
  exact way.run_done

/-- Settles O41: the accept step, then the phases simulate the loops cell by cell and word by word. -/
theorem everyCommandCompletes : Obligations.EveryCommandCompletes := by
  intro k s wf acc
  have way : UnderWay k (accepted k s) := underWay_accepted wf acc
  obtain ⟨idle, lengths, passed⟩ := acc
  refine ⟨_, exec_next_iff.mpr (.accept idle lengths passed), ?_⟩
  cases moves : movesData k with
  | true => exact way.run_bitloop moves
  | false => exact way.run_bitloop_noCells moves

end Sys2Proof.Machine
end

section
/-! PROOF. The events of a whole command (R108): the loops of R104 record events of kinds, and in an order, that only
the operation and its length decide; the counts are read off that list. -/

namespace Sys2Proof.Machine

/-- An event with its addresses, values and answers left out. -/
inductive EventKind where
  | drive (p : Pin)
  | sample
  | memRead
  | memWrite
  | complete
  | fault
  deriving DecidableEq

def kindOf : Event → EventKind
  | .drive p _ _ => .drive p
  | .sample _ _ => .sample
  | .memRead _ _ => .memRead
  | .memWrite _ _ => .memWrite
  | .complete _ => .complete
  | .fault _ => .fault

/-- Counting the events of a kind is counting the kind. -/
theorem countP_eq_count_kind {p : Event → Bool} {κ : EventKind} (isKind : ∀ e, p e = (kindOf e == κ)) (h : List Event) :
    h.countP p = (h.map kindOf).count κ := by
  rw [List.count, List.countP_map]
  exact congrArg (List.countP · h) (funext isKind)

theorem isDrive_eq (p : Pin) (e : Event) : isDrive p e = (kindOf e == .drive p) := by
  cases e <;> simp [isDrive, kindOf, beq_eq_decide]

theorem isSample_eq (e : Event) : isSample e = (kindOf e == .sample) := by
  cases e <;> rfl

theorem isMemRead_eq (e : Event) : isMemRead e = (kindOf e == .memRead) := by
  cases e <;> rfl

theorem isMemWrite_eq (e : Event) : isMemWrite e = (kindOf e == .memWrite) := by
  cases e <;> rfl

theorem isComplete_eq (e : Event) : isComplete e = (kindOf e == .complete) := by
  cases e <;> rfl

/-! ### What is recorded from one state to a later one -/

/-- From `s` to `t` the history gains events of the kinds `l`, newest first. -/
def Records (s t : State) (l : List EventKind) : Prop :=
  ∃ new : List Event, t.history = new ++ s.history ∧ new.map kindOf = l

theorem Records.refl (s : State) : Records s s [] := ⟨[], rfl, rfl⟩

theorem Records.trans {s t u : State} {l l' : List EventKind} (first : Records s t l) (second : Records t u l') :
    Records s u (l' ++ l) := by
  obtain ⟨new, ht, rfl⟩ := first
  obtain ⟨new', hu, rfl⟩ := second
  exact ⟨new' ++ new, by rw [hu, ht, List.append_assoc], List.map_append⟩

/-- An update that records one event. -/
theorem Records.of_cons {s t : State} {e : Event} (added : t.history = e :: s.history) : Records s t [kindOf e] :=
  ⟨[e], added, rfl⟩

/-- An update of something else than the history records nothing. -/
theorem Records.of_history_eq {s t u : State} {l : List EventKind} (before : Records s t l)
    (same : u.history = t.history) : Records s u l := by
  obtain ⟨new, ht, kinds⟩ := before
  exact ⟨new, same.trans ht, kinds⟩

theorem records_drive (p : Pin) (v : Level) (s : State) : Records s (drive p v s) [.drive p] :=
  .of_cons (drive_history p v s)

/-! ### The kinds a command records, newest first -/

/-- A kind that only some commands record. -/
def kindIf (c : Prop) [Decidable c] (κ : EventKind) : List EventKind := if c then [κ] else []

theorem records_if {c : Prop} [Decidable c] {κ : EventKind} {s t : State} (update : Records s t [κ]) :
    Records s (if c then t else s) (kindIf c κ) := by
  unfold kindIf
  split
  · exact update
  · exact .refl s

/-- R92: a bit cell. -/
def cellKinds (k : Instr) : List EventKind :=
  kindIf (receives k) .sample ++ .drive .sck :: .drive .sck :: kindIf (transmits k) (.drive (dout k))

theorem records_driveBit (k : Instr) (s : State) :
    Records s (driveBit k s) (kindIf (transmits k) (.drive (dout k))) :=
  records_if (records_drive _ _ s)

theorem records_sampleBit (k : Instr) (s : State) : Records s (sampleBit k s) (kindIf (receives k) .sample) :=
  records_if (.of_cons (sampleShift_history _ s))

theorem records_bitCell (k : Instr) (s : State) : Records s (bitCell k s) (cellKinds k) := by
  have driven := records_driveBit k s
  have fallen := driven.trans (records_drive .sck Level.low _)
  have risen := fallen.trans (records_drive .sck Level.high _)
  rw [bitCell_eq]
  exact (risen.trans (records_sampleBit k _)).of_history_eq (endCell_history _)

/-- What a state does again and again is recorded again and again. -/
theorem records_replicate {f : Nat → State → State} {g : State → State} {l : List EventKind}
    (zero : ∀ s, f 0 s = s) (succ : ∀ n s, f (n + 1) s = f n (g s)) (once : ∀ s, Records s (g s) l) (n : Nat)
    (s : State) : Records s (f n s) (List.replicate n l).flatten := by
  induction n generalizing s with
  | zero => simpa [zero] using Records.refl s
  | succ n ih =>
    rw [succ, List.replicate_succ', List.flatten_append, List.flatten_singleton]
    exact (once s).trans (ih (g s))

theorem records_bitCells (k : Instr) (n : Nat) (s : State) :
    Records s (bitCells k n s) (List.replicate n (cellKinds k)).flatten :=
  records_replicate (f := bitCells k) (fun _ => rfl) (fun _ _ => rfl) (records_bitCell k) n s

/-- R101 to R103: a word. -/
def wordKinds (k : Instr) : List EventKind :=
  kindIf (receives k) .memWrite ++ ((List.replicate 8 (cellKinds k)).flatten ++ kindIf (transmits k) .memRead)

theorem records_loadWord (k : Instr) (s : State) : Records s (loadWord k s) (kindIf (transmits k) .memRead) := by
  have started : Records s (startWord s) [] := (Records.refl s).of_history_eq (startWord_history s)
  have loaded := started.trans (records_if (c := transmits k) (.of_cons (loadTx_history (srcOf k s + s.word) _)))
  rwa [List.append_nil] at loaded

theorem records_storeWord (k : Instr) (s : State) : Records s (storeWord k s) (kindIf (receives k) .memWrite) :=
  records_if (.of_cons (storeRx_history _ s))

theorem records_wordLoop (k : Instr) (s : State) : Records s (wordLoop k s) (wordKinds k) := by
  have cells := (records_loadWord k s).trans (records_bitCells k 8 _)
  rw [wordLoop_eq]
  exact (cells.trans (records_storeWord k _)).of_history_eq (endWord_history _)

theorem records_wordsLoop (k : Instr) (n : Nat) (s : State) :
    Records s (wordsLoop k n s) (List.replicate n (wordKinds k)).flatten :=
  records_replicate (f := wordsLoop k) (fun _ => rfl) (fun _ _ => rfl) (records_wordLoop k) n s

/-- R104: a command of `n` words. -/
def commandKinds (k : Instr) (n : Nat) : List EventKind :=
  .complete :: ((List.replicate n (wordKinds k)).flatten ++ kindIf (k = .hdRead) (.drive .sda))

theorem records_prepare (k : Instr) (s : State) :
    Records s (prepare k s) (kindIf (k = .hdRead) (.drive .sda)) :=
  records_if (records_drive _ _ s)

theorem records_bitloop (k : Instr) (s : State) : Records s (bitloop k s) (commandKinds k (lengthOf k s)) := by
  have accepts : Records s (accepted k s) [] := (Records.refl s).of_history_eq (accepted_history k s)
  have prepared := accepts.trans (records_prepare k _)
  rw [List.append_nil] at prepared
  have words := prepared.trans (records_wordsLoop k (lengthOf k s) _)
  exact words.trans (.of_cons (completeCommand_history _))

/-! ### The counts (R108) -/

theorem count_commandKinds (k : Instr) (n : Nat) (κ : EventKind) :
    (commandKinds k n).count κ =
      n * (wordKinds k).count κ + (kindIf (k = .hdRead) (.drive .sda)).count κ +
        if EventKind.complete = κ then 1 else 0 := by
  simp [commandKinds, List.count_cons, List.count_flatten]

theorem length_commandKinds (k : Instr) (n : Nat) :
    (commandKinds k n).length = n * (wordKinds k).length + (kindIf (k = .hdRead) (.drive .sda)).length + 1 := by
  simp [commandKinds, List.length_flatten]

/-- R108, of one word of a command with bit cells. -/
theorem count_wordKinds {k : Instr} (moves : movesData k = true) :
    (wordKinds k).count (.drive .sck) = 16 ∧
    (wordKinds k).count (.drive (dout k)) = (if transmits k then 8 else 0) ∧
    (wordKinds k).count .sample = (if receives k then 8 else 0) ∧
    (wordKinds k).count .memRead = (if transmits k then 1 else 0) ∧
    (wordKinds k).count .memWrite = (if receives k then 1 else 0) ∧
    (wordKinds k).count .complete = 0 ∧
    (wordKinds k).length = (if transmits k && receives k then 34 else 25) := by
  revert moves
  cases k <;> decide

/-- R108: the number of events of a command of `n` words. -/
def totalEvents (k : Instr) (n : Nat) : Nat :=
  match k with
  | .fdRead | .fdWrite | .hdWrite => 25 * n + 1
  | .fdTransfer | .fdTransferInPlace => 34 * n + 1
  | .hdRead => 25 * n + 2
  | .fdFlush | .hdFlush | .hdTransfer | .hdTransferInPlace => 1

/-- R108, of a whole command. -/
theorem commandKinds_counts {k : Instr} {n : Nat} (noWords : movesData k = false → n = 0) :
    (commandKinds k n).count (.drive .sck) = (if movesData k then 16 * n else 0) ∧
    (commandKinds k n).count (.drive (dout k)) = (if transmits k then 8 * n else if k = .hdRead then 1 else 0) ∧
    (commandKinds k n).count .sample = (if receives k then 8 * n else 0) ∧
    (commandKinds k n).count .memRead = (if transmits k then n else 0) ∧
    (commandKinds k n).count .memWrite = (if receives k then n else 0) ∧
    (commandKinds k n).count .complete = 1 ∧
    (commandKinds k n).length = totalEvents k n := by
  simp only [count_commandKinds, length_commandKinds]
  cases moves : movesData k with
  | true =>
    obtain ⟨sck, data, samples, reads, writes, complete, length⟩ := count_wordKinds moves
    rw [sck, data, samples, reads, writes, complete, length]
    revert moves
    cases k <;> simp [movesData, transmits, receives, dout, Instr.variant, totalEvents, kindIf, Nat.mul_comm]
  | false =>
    rw [noWords moves]
    revert moves
    cases k <;> simp [movesData, transmits, receives, dout, Instr.variant, totalEvents, kindIf]

/-- Settles O47: the command runs to what the loops do, and the counts are those of the kinds that the loops record. -/
theorem eventCountsOfACommand : Obligations.EventCountsOfACommand := by
  intro k s wf acc
  obtain ⟨t, accepts, completes⟩ := everyCommandCompletes k s wf acc
  obtain ⟨new, history, kinds⟩ := records_bitloop k s
  refine ⟨t, _, new, accepts, completes, history, ?_⟩
  rw [← List.length_map (f := kindOf), countP_eq_count_kind (isDrive_eq .sck),
    countP_eq_count_kind (isDrive_eq (dout k)), countP_eq_count_kind isSample_eq,
    countP_eq_count_kind isMemRead_eq, countP_eq_count_kind isMemWrite_eq, countP_eq_count_kind isComplete_eq, kinds]
  have counts := commandKinds_counts (k := k) (n := lengthOf k s) fun noCells => lengthOf_of_noCells noCells s
  exact counts

end Sys2Proof.Machine
end

section
/-! PROOF. The invariant (R31, R32, R49, R50, R99, R109): each part of it is kept by every rule of R99, and the moves of
the host keep it while no command is in progress. -/

namespace Sys2Proof.Machine

/-! ### The lines (R20, R21, R26 to R28, R109) -/

/-- The part of the invariant about what is on record of the lines. -/
structure LinesRecorded (s : State) : Prop where
  sck        : lastDriven s.history .sck = some s.sck
  mosi       : lastDriven s.history .mosi = s.mosi
  sda        : s.params.variant = .hd → lastDriven s.history .sda = some s.sda
  mosiOnlyFd : s.params.variant = .hd → s.mosi = none
  sdaOnlyHd  : s.params.variant = .fd → lastDriven s.history .sda = none

theorem Inv.linesRecorded {s : State} (inv : Inv s) : LinesRecorded s :=
  ⟨inv.sckRecorded, inv.mosiRecorded, inv.sdaRecorded, inv.mosiOnlyFd, inv.sdaOnlyHd⟩

/-- An update that drives no line keeps the record. -/
theorem LinesRecorded.of_eq {s t : State} (lines : LinesRecorded s) (params : t.params = s.params) (sck : t.sck = s.sck)
    (mosi : t.mosi = s.mosi) (sda : t.sda = s.sda)
    (driven : ∀ p, lastDriven t.history p = lastDriven s.history p) : LinesRecorded t := by
  obtain ⟨sckRec, mosiRec, sdaRec, onlyFd, onlyHd⟩ := lines
  constructor <;> simpa only [params, sck, mosi, sda, driven]

/-- A drive of a line that the engine has keeps the record. -/
theorem LinesRecorded.after_drive {s : State} (lines : LinesRecorded s) {p : Pin} (v : Level)
    (onlyFd : p = .mosi → s.params.variant = .fd) (onlyHd : p = .sda → s.params.variant = .hd) :
    LinesRecorded (drive p v s) where
  sck := by
    rw [drive_history, drive_sck, lastDriven, lines.sck, apply_ite some]
  mosi := by
    rw [drive_history, drive_mosi, lastDriven, lines.mosi]
  sda hd := by
    rw [drive_history, drive_sda, lastDriven, lines.sda hd, apply_ite some]
  mosiOnlyFd hd := by
    have other : p ≠ .mosi := fun h => by cases (onlyFd h).symm.trans hd
    rw [drive_mosi, if_neg other, lines.mosiOnlyFd hd]
  sdaOnlyHd fd := by
    have other : p ≠ .sda := fun h => by cases (onlyHd h).symm.trans fd
    rw [drive_history, lastDriven, if_neg other, lines.sdaOnlyHd fd]

theorem LinesRecorded.after_drive_sck {s : State} (lines : LinesRecorded s) (v : Level) :
    LinesRecorded (drive .sck v s) :=
  lines.after_drive v (fun h => by cases h) (fun h => by cases h)

/-- R12: the data-out line is a line of the operation's variant. -/
theorem LinesRecorded.after_drive_dout {k : Instr} {s : State} (lines : LinesRecorded s)
    (own : k.variant = s.params.variant) (v : Level) : LinesRecorded (drive (dout k) v s) := by
  have pin : (dout k = .mosi → k.variant = .fd) ∧ (dout k = .sda → k.variant = .hd) := by
    cases k <;> decide
  exact lines.after_drive v (fun h => own ▸ pin.1 h) (fun h => own ▸ pin.2 h)

/-- R106: a command drives only lines its engine has, and each drive is on record. -/
theorem StepOf.linesRecorded {k : Instr} {s t : State} (rule : StepOf k s t) (own : k.variant = s.params.variant)
    (lines : LinesRecorded s) : LinesRecorded t := by
  cases rule with
  | prep hp hk =>
    subst hk
    exact (lines.after_drive_dout own Level.high).of_eq rfl rfl rfl rfl fun _ => rfl
  | drive => exact (lines.after_drive_dout own (outBit s.tx s.bit)).of_eq rfl rfl rfl rfl fun _ => rfl
  | clkLow => exact (lines.after_drive_sck Level.low).of_eq rfl rfl rfl rfl fun _ => rfl
  | clkHighRx | clkHighCell | clkHighWord => exact (lines.after_drive_sck Level.high).of_eq rfl rfl rfl rfl fun _ => rfl
  | mismatch | accept | loadEnd | loadRx | loadTx | sampleCell | sampleWord | store | done =>
    exact lines.of_eq rfl rfl rfl rfl fun _ => rfl

theorem movesData_of_transmits {k : Instr} (ht : transmits k = true) : movesData k = true := by
  simp [movesData, ht]

theorem movesData_of_receives {k : Instr} (hr : receives k = true) : movesData k = true := by
  simp [movesData, hr]

theorem dout_ne_sck (k : Instr) : dout k ≠ .sck := by
  cases k <;> decide

/-- R90, R91: what a rule does to SCK. -/
theorem StepOf.sck_cases {k : Instr} {s t : State} (rule : StepOf k s t) :
    (s.phase = .clkLow ∧ movesData k = true ∧ t.phase = .clkHigh ∧ t.sck = Level.low) ∨
    (s.phase = .clkHigh ∧ movesData k = true ∧ t.phase ≠ .clkHigh ∧ t.sck = Level.high) ∨
    (s.phase ≠ .clkHigh ∧ t.phase ≠ .clkHigh ∧ t.sck = s.sck) := by
  cases rule with
  | clkLow hp hk => exact .inl ⟨hp, hk, rfl, rfl⟩
  | clkHighRx hp hr => exact .inr (.inl ⟨hp, movesData_of_receives hr, by simp, rfl⟩)
  | clkHighCell hp ht | clkHighWord hp ht => exact .inr (.inl ⟨hp, movesData_of_transmits ht, by simp, rfl⟩)
  | accept hp => exact .inr (.inr ⟨by simp [hp], by cases k <;> simp [firstPhase], rfl⟩)
  | drive hp => exact .inr (.inr ⟨by simp [hp], by simp, if_neg (dout_ne_sck k)⟩)
  | sampleCell hp => exact .inr (.inr ⟨by simp [hp], by simp only [toPhase_phase]; split <;> decide, rfl⟩)
  | mismatch hp | prep hp | loadEnd hp | loadRx hp | loadTx hp | sampleWord hp | store hp | done hp =>
    exact .inr (.inr ⟨by simp [hp], by simp, rfl⟩)

/-- R109: SCK stays low exactly in CLK_HIGH. -/
theorem StepOf.clockExact {k : Instr} {s t : State} (rule : StepOf k s t)
    (before : s.sck = Level.low ↔ s.phase = .clkHigh) : t.sck = Level.low ↔ t.phase = .clkHigh := by
  obtain ⟨-, -, phase, sck⟩ | ⟨-, -, phase, sck⟩ | ⟨notHigh, phase, sck⟩ := rule.sck_cases
  · exact iff_of_true sck phase
  · exact iff_of_false (by simp [sck]) phase
  · rw [sck, before]
    exact iff_of_false notHigh phase

/-! ### STATUS and CAUSE (R31, R32) -/

/-- The part of the invariant about STATUS and CAUSE. -/
structure StatusExact (s : State) : Prop where
  busy    : s.busy = true ↔ s.phase ≠ .idle ∧ s.phase ≠ .fault
  faulted : s.faulted = true ↔ s.phase = .fault
  cause   : if s.phase = .fault then s.cause = 1#8 ∨ s.cause = 2#8 else s.cause = 0#8

theorem Inv.statusExact {s : State} (inv : Inv s) : StatusExact s :=
  ⟨inv.busyExact, inv.faultExact, inv.causeExact⟩

theorem StatusExact.after_raiseFault (c : FaultCause) (s : State) : StatusExact (raiseFault c s) :=
  ⟨by simp, by simp, by cases c <;> simp [causeCode]⟩

/-- Between commands and during one, FAULT and CAUSE are 0 (R31, R32). -/
theorem StatusExact.of_notFault {s t : State} (status : StatusExact s) (before : s.phase ≠ .fault)
    (after : t.phase ≠ .fault) (busy : t.busy = true ↔ t.phase ≠ .idle) (faulted : t.faulted = s.faulted)
    (cause : t.cause = s.cause) : StatusExact t where
  busy := by simp only [busy, after, ne_eq, not_false_eq_true, and_true]
  faulted := by rw [faulted, status.faulted]; exact iff_of_false before after
  cause := by
    have zero := status.cause
    rw [if_neg before] at zero
    rw [if_neg after, cause, zero]

/-- A rule outside FAULT keeps STATUS and CAUSE exact. -/
theorem StepOf.statusExact {k : Instr} {s t : State} (rule : StepOf k s t) (status : StatusExact s) :
    StatusExact t := by
  have busy (hi : s.phase ≠ .idle) (hf : s.phase ≠ .fault) : s.busy = true := status.busy.mpr ⟨hi, hf⟩
  cases rule with
  | mismatch => exact .after_raiseFault _ s
  | accept hp =>
    have first : firstPhase k ≠ .fault ∧ firstPhase k ≠ .idle := by cases k <;> decide
    exact status.of_notFault (by simp [hp]) first.1 (by simp [first.2]) rfl rfl
  | done hp => exact status.of_notFault (by simp [hp]) (by simp) (by simp) rfl rfl
  | sampleCell hp =>
    have again : (if transmits k then Phase.drive else .clkLow) ≠ .fault ∧
        (if transmits k then Phase.drive else .clkLow) ≠ .idle := by
      split <;> decide
    exact status.of_notFault (by simp [hp]) again.1
      (iff_of_true (busy (by simp [hp]) (by simp [hp])) again.2) rfl rfl
  | prep hp | loadEnd hp | loadRx hp | loadTx hp | drive hp | clkLow hp | clkHighRx hp | clkHighCell hp
  | clkHighWord hp | sampleWord hp | store hp =>
    exact status.of_notFault (by simp [hp]) (by simp)
      (iff_of_true (busy (by simp [hp]) (by simp [hp])) (by simp)) rfl rfl

/-! ### Memory (R50) -/

theorem WritesAtMostOneByte.canonical {s t : State} (writes : WritesAtMostOneByte s t) (canonical : s.mem.wf = true) :
    t.mem.wf = true := by
  obtain kept | ⟨a, v, -, written⟩ := writes
  · rwa [kept]
  · rw [written]
    exact Memory.wf_write canonical a v

theorem WritesAtMostOneByte.inside {s t : State} (writes : WritesAtMostOneByte s t)
    (inside : ∀ c ∈ s.mem, c.1 < 2 ^ s.params.addrW) : ∀ c ∈ t.mem, c.1 < 2 ^ s.params.addrW := by
  obtain kept | ⟨a, v, has, written⟩ := writes
  · rwa [kept]
  · rw [written]
    exact Memory.inside_write inside (of_decide_eq_true has)

/-! ### The command in progress (R40 to R42, R49, R99, R165) -/

/-- R40: the latch holds the command from its acceptance to its end. -/
theorem StepOf.latched_eq {k : Instr} {s t : State} (rule : StepOf k s t) (own : k.variant = s.params.variant)
    (latch : s.phase ≠ .idle → latched s = .op k) (busy : t.busy = true) : latched t = .op k := by
  cases rule with
  | mismatch => cases busy
  | accept => exact latched_of_onCommand ⟨own.symm, rfl⟩
  | done => cases busy
  | prep hp | loadEnd hp | loadRx hp | loadTx hp | drive hp | clkLow hp | clkHighRx hp | clkHighCell hp
  | clkHighWord hp | sampleCell hp | sampleWord hp | store hp => exact latch (by simp [hp])

/-- R99, R165: the checks passed at acceptance stay passed, since the operands are kept. -/
theorem StepOf.checks_passed {k : Instr} {s t : State} (rule : StepOf k s t)
    (before : s.phase ≠ .idle → refusalOf k s = none ∧ lengthsAgree k s = true) (busy : t.busy = true) :
    refusalOf k t = none ∧ lengthsAgree k t = true := by
  obtain ⟨rxAddr, rxLen, txAddr, txLen⟩ := rule.operandRegisters_eq
  obtain ⟨-, -, refusal, lengths⟩ := operands_congr (k := k) rule.params_eq rxAddr rxLen txAddr txLen
  rw [refusal, lengths]
  cases rule with
  | mismatch => cases busy
  | accept hp hl hr => exact ⟨hr, hl⟩
  | prep hp | loadEnd hp | loadRx hp | loadTx hp | drive hp | clkLow hp | clkHighRx hp | clkHighCell hp
  | clkHighWord hp | sampleCell hp | sampleWord hp | store hp | done hp => exact before (by simp [hp])

section
variable {k : Instr} {s : State}

/-! Each phase has its positions (R99). -/

theorem atPosition_prep : AtPosition k (toPhase .prep s) ↔ k = .hdRead ∧ s.word = 0 := .rfl

theorem atPosition_load : AtPosition k (toPhase .load s) ↔ movesData k = true ∧ s.word ≤ lengthOf k s := by
  simp [AtPosition]

theorem atPosition_drive :
    AtPosition k (toPhase .drive s) ↔ transmits k = true ∧ s.word < lengthOf k s ∧ s.bit < 8 := by
  simp [AtPosition]

theorem atPosition_clkLow :
    AtPosition k (toPhase .clkLow s) ↔ movesData k = true ∧ s.word < lengthOf k s ∧ s.bit < 8 := by
  simp [AtPosition]

theorem atPosition_clkHigh :
    AtPosition k (toPhase .clkHigh s) ↔ movesData k = true ∧ s.word < lengthOf k s ∧ s.bit < 8 := by
  simp [AtPosition]

theorem atPosition_sample :
    AtPosition k (toPhase .sample s) ↔ receives k = true ∧ s.word < lengthOf k s ∧ s.bit < 8 := by
  simp [AtPosition]

theorem atPosition_store :
    AtPosition k (toPhase .store s) ↔ receives k = true ∧ s.word < lengthOf k s ∧ s.bit = 8 := by
  simp [AtPosition]

theorem atPosition_done : AtPosition k (toPhase .done s) ↔ s.word = lengthOf k s := by
  simp [AtPosition]

theorem atPosition_of_phase {ph : Phase} (pos : s.phase ≠ .idle → AtPosition k s) (hp : s.phase = ph)
    (hi : ph ≠ .idle := by decide) : AtPosition k (toPhase ph s) := by
  subst hp
  exact pos hi

/-- A command starts at one of its positions. -/
theorem atPosition_first : AtPosition k (toPhase (firstPhase k) (accepted k s)) := by
  cases k with
  | hdRead => exact atPosition_prep.mpr ⟨rfl, rfl⟩
  | fdRead | fdWrite | fdTransfer | fdTransferInPlace | hdWrite => exact atPosition_load.mpr ⟨rfl, Nat.zero_le _⟩
  | fdFlush | hdFlush | hdTransfer | hdTransferInPlace => exact atPosition_done.mpr rfl

end

/-- R41, R42, R99: a rule leads from one position of the command to another. -/
theorem StepOf.atPosition {k : Instr} {s t : State} (rule : StepOf k s t) (pos : s.phase ≠ .idle → AtPosition k s)
    (busy : t.busy = true) : AtPosition k t := by
  cases rule with
  | mismatch => cases busy
  | done => cases busy
  | accept => exact atPosition_first
  | prep hp hk =>
    obtain ⟨-, word⟩ := atPosition_prep.mp (atPosition_of_phase pos hp)
    exact atPosition_load.mpr ⟨by rw [hk]; rfl, word ▸ Nat.zero_le _⟩
  | loadEnd hp hk hw => exact atPosition_done.mpr hw
  | loadRx hp hr ht hw =>
    obtain ⟨moves, word⟩ := atPosition_load.mp (atPosition_of_phase pos hp)
    exact atPosition_clkLow.mpr ⟨moves, Nat.lt_of_le_of_ne word hw, by simp⟩
  | loadTx hp ht hw ha =>
    obtain ⟨-, word⟩ := atPosition_load.mp (atPosition_of_phase pos hp)
    exact atPosition_drive.mpr ⟨ht, Nat.lt_of_le_of_ne word hw, by simp⟩
  | drive hp ht =>
    obtain ⟨-, place⟩ := atPosition_drive.mp (atPosition_of_phase pos hp)
    exact atPosition_clkLow.mpr ⟨movesData_of_transmits ht, place⟩
  | clkLow hp hk => exact atPosition_clkHigh.mpr (atPosition_clkLow.mp (atPosition_of_phase pos hp))
  | clkHighRx hp hr =>
    obtain ⟨-, place⟩ := atPosition_clkHigh.mp (atPosition_of_phase pos hp)
    exact atPosition_sample.mpr ⟨hr, place⟩
  | clkHighCell hp ht hr hb =>
    obtain ⟨-, word, -⟩ := atPosition_clkHigh.mp (atPosition_of_phase pos hp)
    exact atPosition_drive.mpr ⟨ht, word, hb⟩
  | clkHighWord hp ht hr hb =>
    obtain ⟨moves, word, -⟩ := atPosition_clkHigh.mp (atPosition_of_phase pos hp)
    exact atPosition_load.mpr ⟨moves, word⟩
  | sampleCell hp hr hb =>
    obtain ⟨-, word, -⟩ := atPosition_sample.mp (atPosition_of_phase pos hp)
    split
    · next ht => exact atPosition_drive.mpr ⟨ht, word, hb⟩
    · exact atPosition_clkLow.mpr ⟨movesData_of_receives hr, word, hb⟩
  | sampleWord hp hr hb =>
    obtain ⟨-, word, bit⟩ := atPosition_sample.mp (atPosition_of_phase pos hp)
    exact atPosition_store.mpr ⟨hr, word, Nat.le_antisymm bit (Nat.not_lt.mp hb)⟩
  | store hp hr ha =>
    obtain ⟨moves, word, -⟩ := atPosition_store.mp (atPosition_of_phase pos hp)
    exact atPosition_load.mpr ⟨movesData_of_receives hr, word⟩

/-- R42: at every position at most eight bits of the word are done. -/
theorem StepOf.bit_le {k : Instr} {s t : State} (rule : StepOf k s t) (pos : s.phase ≠ .idle → AtPosition k s)
    (bound : s.bit ≤ 8) : t.bit ≤ 8 := by
  cases rule with
  | mismatch | prep | loadEnd | drive | clkLow | clkHighRx | store | done => exact bound
  | accept | loadRx | loadTx => exact Nat.zero_le 8
  | clkHighCell hp ht hr hb => exact Nat.le_of_lt hb
  | sampleCell hp hr hb => exact Nat.le_of_lt hb
  | clkHighWord hp ht hr hb =>
    obtain ⟨-, -, bit⟩ := atPosition_clkHigh.mp (atPosition_of_phase pos hp)
    exact bit
  | sampleWord hp hr hb =>
    obtain ⟨-, -, bit⟩ := atPosition_sample.mp (atPosition_of_phase pos hp)
    exact bit

/-- R72: the codes of the operations are 1 to 5. -/
theorem opcode_le (k : Instr) : k.opcode.toNat ≤ 5 := by
  cases k <;> decide

/-- R40: the latch holds the code of an operation, or what it held. -/
theorem StepOf.op_le {k : Instr} {s t : State} (rule : StepOf k s t) (bound : s.op.toNat ≤ 5) : t.op.toNat ≤ 5 := by
  cases rule with
  | accept => exact opcode_le k
  | mismatch | prep | loadEnd | loadRx | loadTx | drive | clkLow | clkHighRx | clkHighCell | clkHighWord | sampleCell
  | sampleWord | store | done => exact bound

/-- R49: hd.read drives SDA high in PREP and not again. -/
theorem StepOf.sda_high {s t : State} (rule : StepOf .hdRead s t)
    (before : s.phase ≠ .idle → s.phase ≠ .prep → s.sda = Level.high) (busy : t.busy = true) (after : t.phase ≠ .prep) :
    t.sda = Level.high := by
  cases rule with
  | mismatch => cases busy
  | done => cases busy
  | accept => exact absurd rfl after
  | prep => rfl
  | drive _ ht => cases ht
  | loadEnd hp | loadRx hp | loadTx hp | clkLow hp | clkHighRx hp | clkHighCell hp | clkHighWord hp | sampleCell hp
  | sampleWord hp | store hp => exact before (by simp [hp]) (by simp [hp])

/-- What holds of the command in progress holds after each of its steps until it ends. -/
theorem StepOf.commandInv {k : Instr} {s t : State} (rule : StepOf k s t) (own : k.variant = s.params.variant)
    (before : s.phase ≠ .idle → CommandInv k s) (busy : t.busy = true) : CommandInv k t := by
  obtain ⟨passed, lengths⟩ := rule.checks_passed (fun hi => ⟨(before hi).passed, (before hi).lengths⟩) busy
  refine ⟨rule.latched_eq own (fun hi => (before hi).isLatched) busy, passed, lengths,
    rule.atPosition (fun hi => (before hi).position) busy, ?_⟩
  rintro rfl
  exact rule.sda_high (fun hi => (before hi).sdaReleased rfl) busy

/-- A step of a command, from IDLE or in progress, keeps the invariant. -/
theorem Inv.after_rule {k : Instr} {s t : State} (inv : Inv s) (rule : StepOf k s t)
    (own : k.variant = s.params.variant) (before : s.phase ≠ .idle → CommandInv k s) : Inv t := by
  obtain ⟨rxAddr, rxLen, txAddr, txLen⟩ := rule.operandRegisters_eq
  have params := rule.params_eq
  have lines := rule.linesRecorded own inv.linesRecorded
  have status := rule.statusExact inv.statusExact
  exact {
    paramsWf := by rw [params]; exact inv.paramsWf
    rxAddrWidth := by rw [params, rxAddr]; exact inv.rxAddrWidth
    rxLenWidth := by rw [params, rxLen]; exact inv.rxLenWidth
    txAddrWidth := by rw [params, txAddr]; exact inv.txAddrWidth
    txLenWidth := by rw [params, txLen]; exact inv.txLenWidth
    memCanonical := rule.writesAtMostOneByte.canonical inv.memCanonical
    memInside := by rw [params]; exact rule.writesAtMostOneByte.inside inv.memInside
    busyExact := status.busy
    faultExact := status.faulted
    causeExact := status.cause
    clockExact := rule.clockExact inv.clockExact
    sckRecorded := lines.sck
    mosiRecorded := lines.mosi
    sdaRecorded := lines.sda
    mosiOnlyFd := lines.mosiOnlyFd
    sdaOnlyHd := lines.sdaOnlyHd
    bitBound := rule.bit_le (fun hi => (before hi).position) inv.bitBound
    opBound := rule.op_le inv.opBound
    command := fun busy => ⟨k, rule.commandInv own before busy⟩ }

/-! ### The moves of the host (R38, R62, R82, R160, R190) -/

/-- R31: in IDLE and in FAULT no command is in progress. -/
theorem Inv.busy_eq_false {s : State} (inv : Inv s) (blocked : s.phase = .idle ∨ s.phase = .fault) : s.busy = false :=
  Bool.eq_false_iff.mpr fun busy => by
    obtain ⟨hi, hf⟩ := inv.busyExact.mp busy
    exact blocked.elim hi hf

/-- Between commands, what stands with the host may be anything of its width. -/
theorem Inv.after_hostWrites {s : State} (inv : Inv s) (resting : s.busy = false) {ra rl ta tl : Nat} {m : Memory}
    (moves : List HostMove) (reads : List Nat) (rxAddr : ra < 2 ^ s.params.addrW) (rxLen : rl < 2 ^ s.params.lenW)
    (txAddr : ta < 2 ^ s.params.addrW) (txLen : tl < 2 ^ s.params.lenW) (canonical : m.wf = true)
    (inside : ∀ c ∈ m, c.1 < 2 ^ s.params.addrW) :
    Inv { s with
      rxAddr := ra, rxLen := rl, txAddr := ta, txLen := tl, mem := m, hostMoves := moves, hostReads := reads } :=
  { inv with
    rxAddrWidth := rxAddr
    rxLenWidth := rxLen
    txAddrWidth := txAddr
    txLenWidth := txLen
    memCanonical := canonical
    memInside := inside
    command := fun busy => by cases resting.symm.trans busy }

/-- R160: fault entry from outside a pulse. -/
theorem Inv.after_raiseFault {s : State} (inv : Inv s) (outside : s.phase ≠ .clkHigh) (c : FaultCause) :
    Inv (raiseFault c s) :=
  have status : StatusExact (raiseFault c s) := .after_raiseFault c s
  have lines : LinesRecorded (raiseFault c s) := inv.linesRecorded.of_eq rfl rfl rfl rfl fun _ => rfl
  { inv with
    busyExact := status.busy
    faultExact := status.faulted
    causeExact := status.cause
    clockExact := iff_of_false (by simp [inv.sck_high outside]) (by simp)
    sckRecorded := lines.sck
    mosiRecorded := lines.mosi
    sdaRecorded := lines.sda
    mosiOnlyFd := lines.mosiOnlyFd
    sdaOnlyHd := lines.sdaOnlyHd
    command := fun busy => by cases busy }

/-- R47, R190: the reset values of an engine. -/
theorem reconstruct_fields (v : Variant) (s : State) :
    let t := reconstruct v s
    t.phase = .idle ∧ t.sck = Level.high ∧ t.mosi = none ∧ t.sda = Level.high ∧ t.busy = false ∧ t.faulted = false ∧
      t.cause = 0#8 ∧ t.rxAddr = 0 ∧ t.rxLen = 0 ∧ t.txAddr = 0 ∧ t.txLen = 0 ∧ t.op = 0#3 ∧ t.word = 0 ∧
      t.bit = 0 := by
  cases v <;> exact ⟨rfl, rfl, rfl, rfl, rfl, rfl, rfl, rfl, rfl, rfl, rfl, rfl, rfl, rfl⟩

/-- R190: the reset sequence drives SCK, and SDA where the engine has it. -/
theorem linesRecorded_reconstruct (v : Variant) (s : State) : LinesRecorded (reconstruct v s) := by
  cases v with
  | fd => exact ⟨rfl, rfl, fun hd => (by cases hd), fun _ => rfl, fun _ => rfl⟩
  | hd => exact ⟨rfl, rfl, fun _ => rfl, fun _ => rfl, fun fd => by cases fd⟩

/-- R190: a construction meets the invariant, whatever was before. -/
theorem Inv.after_reconstruct {s : State} (inv : Inv s) (v : Variant) : Inv (reconstruct v s) := by
  obtain ⟨phase, sck, -, -, busy, faulted, cause, rxAddr, rxLen, txAddr, txLen, op, -, bit⟩ := reconstruct_fields v s
  have lines := linesRecorded_reconstruct v s
  exact {
    paramsWf := by rw [reconstruct_params]; exact inv.paramsWf
    rxAddrWidth := by rw [rxAddr]; exact Nat.two_pow_pos _
    rxLenWidth := by rw [rxLen]; exact Nat.two_pow_pos _
    txAddrWidth := by rw [txAddr]; exact Nat.two_pow_pos _
    txLenWidth := by rw [txLen]; exact Nat.two_pow_pos _
    memCanonical := by rw [reconstruct_mem]; exact inv.memCanonical
    memInside := by rw [reconstruct_mem, reconstruct_params]; exact inv.memInside
    busyExact := by simp [busy, phase]
    faultExact := by simp [faulted, phase]
    causeExact := by simp [cause, phase]
    clockExact := by simp [sck, phase]
    sckRecorded := lines.sck
    mosiRecorded := lines.mosi
    sdaRecorded := lines.sda
    mosiOnlyFd := lines.mosiOnlyFd
    sdaOnlyHd := lines.sdaOnlyHd
    bitBound := by simp [bit]
    opBound := by simp [op]
    command := fun up => by cases busy.symm.trans up }

/-- R70, R82, R163: a write of CMD starts a command or enters FAULT. -/
theorem Inv.after_issue {s t : State} {c : Word} (inv : Inv s) (idle : s.phase = .idle) (e : issue c s = .next t) :
    Inv t := by
  unfold issue at e
  split at e
  · next k decoded =>
    exact inv.after_rule (exec_next_iff.mp e) (variant_of_decode decoded) (fun hi => absurd idle hi)
  · cases e
    exact inv.after_raiseFault (by simp [idle]) _

/-- R34 to R37: a write of an operand register, of a value of its width. -/
theorem Inv.after_regWrite {s : State} {r : CtrlReg} {v : Nat} (inv : Inv s) (resting : s.busy = false)
    (hr : r ∈ [CtrlReg.rxAddr, .rxLen, .txAddr, .txLen]) (fits : v < 2 ^ regWidth s.params r) :
    Inv (regWrite r v s) := by
  have write {ra rl ta tl : Nat} := inv.after_hostWrites (ra := ra) (rl := rl) (ta := ta) (tl := tl) (m := s.mem)
    resting s.hostMoves s.hostReads
  obtain ⟨-, rxAddr, rxLen, txAddr, txLen, canonical, inside, -⟩ := inv
  cases r with
  | rxAddr => exact write fits rxLen txAddr txLen canonical inside
  | rxLen => exact write rxAddr fits txAddr txLen canonical inside
  | txAddr => exact write rxAddr rxLen fits txLen canonical inside
  | txLen => exact write rxAddr rxLen txAddr fits canonical inside
  | config | status | cause | cmd => exact absurd hr (by decide)

/-- What stands with the host is no part of the invariant. -/
theorem Inv.after_hostMoves {s : State} (inv : Inv s) (resting : s.busy = false) (moves : List HostMove)
    (reads : List Nat) : Inv { s with hostMoves := moves, hostReads := reads } :=
  inv.after_hostWrites resting moves reads inv.rxAddrWidth inv.rxLenWidth inv.txAddrWidth inv.txLenWidth
    inv.memCanonical inv.memInside

theorem Inv.after_idleMove {m : HostMove} {s t : State} (inv : Inv s) (idle : s.phase = .idle)
    (e : idleMove m s = .next t) : Inv t := by
  have resting := inv.busy_eq_false (.inl idle)
  cases m with
  | regWrite n v =>
    obtain ⟨-, -, issued⟩ | ⟨-, rfl⟩ | ⟨hr, fits, rfl⟩ := regWriteMove_next e
    · exact inv.after_issue idle issued
    · exact inv
    · exact inv.after_regWrite resting hr fits
  | regRead n =>
    cases e
    exact inv.after_hostMoves resting _ _
  | memWrite a v =>
    obtain ⟨inside, rfl⟩ := memWriteMove_next_iff.mp e
    exact inv.after_hostWrites resting _ _ inv.rxAddrWidth inv.rxLenWidth inv.txAddrWidth inv.txLenWidth
      (Memory.wf_write inv.memCanonical a v) (Memory.inside_write inv.memInside inside)
  | memRead a =>
    obtain ⟨-, rfl⟩ := memReadMove_next_iff.mp e
    exact inv.after_hostMoves resting _ _
  | construct v =>
    cases e
    exact inv.after_reconstruct v

theorem Inv.after_faultMove {m : HostMove} {s t : State} (inv : Inv s) (fault : s.phase = .fault)
    (e : faultMove m s = .next t) : Inv t := by
  obtain ⟨-, -, -, rfl⟩ | ⟨-, -, rfl⟩ | ⟨v, -, rfl⟩ := faultMove_next_iff.mp e
  · exact inv
  · exact inv.after_hostMoves (inv.busy_eq_false (.inr fault)) _ _
  · exact inv.after_reconstruct v

theorem Inv.after_hostMove {m : HostMove} {s t : State} (inv : Inv s) (blocked : s.phase = .idle ∨ s.phase = .fault)
    (e : hostMove m s = .next t) : Inv t := by
  obtain idle | fault := blocked
  · exact inv.after_idleMove idle ((hostMove_of_idle idle).symm.trans e)
  · exact inv.after_faultMove fault ((hostMove_of_fault fault).symm.trans e)

/-- R40: the command in progress is the latched one. -/
theorem Inv.commandInv_of_latched {k : Instr} {s : State} (inv : Inv s) (busy : s.busy = true)
    (latch : latched s = .op k) : CommandInv k s := by
  obtain ⟨k', cmd⟩ := inv.command busy
  obtain rfl : k' = k := Decoded.op.inj (cmd.isLatched.symm.trans latch)
  exact cmd

/-- Settles O3: a step is a move of the host or a rule of R99 for the latched command, and each keeps the invariant. -/
theorem stepKeepsInvariant : Obligations.StepKeepsInvariant := by
  intro s t inv e
  obtain ⟨m, rest, blocked, -, moved⟩ | ⟨k, hi, hf, latch, rule⟩ := step_next_cases e
  · have next : Inv { s with hostMoves := rest } := inv.after_hostMoves (inv.busy_eq_false blocked) rest s.hostReads
    exact next.after_hostMove blocked moved
  · have cmd : CommandInv k s := inv.commandInv_of_latched (inv.busyExact.mpr ⟨hi, hf⟩) latch
    exact inv.after_rule rule (variant_of_decode latch) fun _ => cmd

end Sys2Proof.Machine
end

section
/-! PROOF. What a step of a command leaves unchanged (R97, R106), the phases without a step (R168), and acceptance (R99,
R165). -/

namespace Sys2Proof.Machine

/-! ### What a step leaves unchanged -/

/-- Settles O29: no rule of R99 records two events. -/
theorem atMostOneEventPerStep : Obligations.AtMostOneEventPerStep := by
  intro k s t e
  cases exec_next_iff.mp e with
  | accept | loadEnd | loadRx => exact .inl rfl
  | mismatch | prep | loadTx | drive | clkLow | clkHighRx | clkHighCell | clkHighWord | sampleCell | sampleWord | store
  | done => exact .inr ⟨_, rfl⟩

/-- R12, R95, R106: what a rule does to MOSI and SDA: DRIVE drives the data-out line, PREP drives SDA high, and no other
rule drives one of the two. -/
theorem StepOf.data_cases {k : Instr} {s t : State} (rule : StepOf k s t) :
    (s.phase = .drive ∧ transmits k = true ∧ ∃ v r, t.history = .drive (dout k) v r :: s.history ∧
      (dout k ≠ .mosi → t.mosi = s.mosi) ∧ (dout k ≠ .sda → t.sda = s.sda)) ∨
    (s.phase = .prep ∧ k = .hdRead ∧ t.mosi = s.mosi ∧ ∃ r, t.history = .drive .sda Level.high r :: s.history) ∨
    (t.mosi = s.mosi ∧ t.sda = s.sda ∧
      ∀ p v r, t.history = .drive p v r :: s.history → p = .sck) := by
  cases rule with
  | drive hp ht => exact .inl ⟨hp, ht, _, _, rfl, fun h => if_neg h, fun h => if_neg h⟩
  | prep hp hk => exact .inr (.inl ⟨hp, hk, rfl, _, rfl⟩)
  | mismatch | accept | loadEnd | loadRx | loadTx | clkLow | clkHighRx | clkHighCell | clkHighWord | sampleCell
  | sampleWord | store | done => exact .inr (.inr ⟨rfl, rfl, by simp⟩)

/-- R95: the transmitting operations, by data-out line. -/
theorem dout_of_transmits {k : Instr} (ht : transmits k = true) :
    (k ∈ [Instr.fdWrite, .fdTransfer, .fdTransferInPlace] ∧ dout k = .mosi) ∨ (k = .hdWrite ∧ dout k = .sda) := by
  revert ht
  cases k <;> decide

/-- Settles O32: by what a rule does to SCK, and by what it does to the data lines. -/
theorem linesUnchangedElsewhere : Obligations.LinesUnchangedElsewhere := by
  intro k s t e
  have rule := exec_next_iff.mp e
  refine ⟨?sck, ?noCells, ?mosi, ?sda, ?fdRead, ?hdRead⟩
  case sck =>
    intro notLow notHigh
    obtain ⟨hp, -⟩ | ⟨hp, -⟩ | ⟨-, -, kept⟩ := rule.sck_cases
    · exact absurd hp notLow
    · exact absurd hp notHigh
    · exact kept
  case noCells =>
    intro hk
    have noCells : movesData k ≠ true := by
      revert hk
      cases k <;> decide
    obtain ⟨-, moves, -⟩ | ⟨-, moves, -⟩ | ⟨-, -, kept⟩ := rule.sck_cases
    · exact absurd moves noCells
    · exact absurd moves noCells
    · exact kept
  case mosi =>
    intro other
    obtain ⟨hp, ht, -, -, -, kept, -⟩ | ⟨-, -, kept, -⟩ | ⟨kept, -⟩ := rule.data_cases
    · obtain ⟨hk, -⟩ | ⟨-, line⟩ := dout_of_transmits ht
      · exact absurd hk (other.resolve_left (not_not_intro hp))
      · exact kept (by simp [line])
    · exact kept
    · exact kept
  case sda =>
    intro otherDrive otherPrep
    obtain ⟨hp, ht, -, -, -, -, kept⟩ | ⟨hp, hk, -⟩ | ⟨-, kept, -⟩ := rule.data_cases
    · obtain ⟨-, line⟩ | ⟨hk, -⟩ := dout_of_transmits ht
      · exact kept (by simp [line])
      · exact absurd hk (otherDrive.resolve_left (not_not_intro hp))
    · exact absurd hk (otherPrep.resolve_left (not_not_intro hp))
    · exact kept
  case fdRead =>
    rintro rfl v r driven
    obtain ⟨-, ht, -⟩ | ⟨-, hk, -⟩ | ⟨-, -, onlySck⟩ := rule.data_cases
    · cases ht
    · cases hk
    · cases onlySck _ _ _ driven
  case hdRead =>
    rintro rfl v r driven
    obtain ⟨-, ht, -⟩ | ⟨hp, -, -, r', prep⟩ | ⟨-, -, onlySck⟩ := rule.data_cases
    · cases ht
    · cases prep.symm.trans driven
      exact ⟨hp, rfl⟩
    · cases onlySck _ _ _ driven

section
variable {k : Instr} {s t : State} (rule : StepOf k s t)
include rule

/-- R31, R32, R40: FAULT, CAUSE and the latch are written by the accept step only. -/
theorem StepOf.latch_eq (hi : s.phase ≠ .idle) : t.faulted = s.faulted ∧ t.cause = s.cause ∧ t.op = s.op := by
  cases rule with
  | mismatch hp | accept hp => exact absurd hp hi
  | prep | loadEnd | loadRx | loadTx | drive | clkLow | clkHighRx | clkHighCell | clkHighWord | sampleCell | sampleWord
  | store | done => exact ⟨rfl, rfl, rfl⟩

/-- R31: BUSY is written by the accept step and in DONE. -/
theorem StepOf.busy_eq (hi : s.phase ≠ .idle) (hd : s.phase ≠ .done) : t.busy = s.busy := by
  cases rule with
  | mismatch hp | accept hp => exact absurd hp hi
  | done hp => exact absurd hp hd
  | prep | loadEnd | loadRx | loadTx | drive | clkLow | clkHighRx | clkHighCell | clkHighWord | sampleCell | sampleWord
  | store => rfl

/-- R41: words are counted at their end. -/
theorem StepOf.word_eq (hi : s.phase ≠ .idle) (hs : s.phase ≠ .store) (hc : s.phase ≠ .clkHigh) : t.word = s.word := by
  cases rule with
  | accept hp => exact absurd hp hi
  | store hp => exact absurd hp hs
  | clkHighWord hp => exact absurd hp hc
  | mismatch | prep | loadEnd | loadRx | loadTx | drive | clkLow | clkHighRx | clkHighCell | sampleCell | sampleWord
  | done => rfl

/-- R42: bits are counted at the end of their cell. -/
theorem StepOf.bit_eq (hi : s.phase ≠ .idle) (hl : s.phase ≠ .load) (hs : s.phase ≠ .sample) (hc : s.phase ≠ .clkHigh) :
    t.bit = s.bit := by
  cases rule with
  | accept hp => exact absurd hp hi
  | loadRx hp | loadTx hp => exact absurd hp hl
  | sampleCell hp | sampleWord hp => exact absurd hp hs
  | clkHighCell hp | clkHighWord hp => exact absurd hp hc
  | mismatch | prep | loadEnd | drive | clkLow | clkHighRx | store | done => rfl

/-- R44: the accumulator is cleared in LOAD and shifted in SAMPLE. -/
theorem StepOf.rx_eq (hl : s.phase ≠ .load) (hs : s.phase ≠ .sample) : t.rx = s.rx := by
  cases rule with
  | loadRx hp | loadTx hp => exact absurd hp hl
  | sampleCell hp | sampleWord hp => exact absurd hp hs
  | mismatch | accept | prep | loadEnd | drive | clkLow | clkHighRx | clkHighCell | clkHighWord | store | done => rfl

/-- R102: the outgoing word is captured in LOAD. -/
theorem StepOf.tx_eq (hl : s.phase ≠ .load) : t.tx = s.tx := by
  cases rule with
  | loadTx hp => exact absurd hp hl
  | mismatch | accept | prep | loadEnd | loadRx | drive | clkLow | clkHighRx | clkHighCell | clkHighWord | sampleCell
  | sampleWord | store | done => rfl

end

/-- Settles O33: register by register, by the rules that write it. -/
theorem statusAndPositionUnchangedElsewhere : Obligations.StatusAndPositionUnchangedElsewhere := by
  intro k s t e
  have rule := exec_next_iff.mp e
  exact ⟨rule.latch_eq, rule.busy_eq, rule.word_eq, rule.bit_eq, rule.rx_eq, rule.tx_eq⟩

/-! ### Phases without a step (R97, R160, R168) -/

/-- R168: no operation has a step in FAULT. -/
theorem exec_fault (k : Instr) {s : State} (hp : s.phase = .fault) : exec k s = .fault .faultPhase := by
  cases k <;>
    simp only [exec, execFdRead, execFdWrite, execFdTransfer, execFdTransferInPlace, execFdFlush, execHdRead,
      execHdWrite, execHdTransfer, execHdTransferInPlace, execHdFlush, hp, noStepInFault]

/-- Settles O10: no move of the host, no rule of R99, and no access to memory in FAULT. -/
theorem noStepWithoutHostMove : Obligations.NoStepWithoutHostMove := by
  refine ⟨?idle, ?fault, fun k s => exec_fault k, ?memory⟩
  case idle =>
    intro s hp hm
    simp [step, hostStep, hp, hm]
  case fault =>
    intro s hp hm
    simp [step, hostStep, hp, hm]
  case memory =>
    rintro s a rest hp (hm | ⟨v, hm⟩)
    · exact step_eq_faultMove hp hm
    · exact step_eq_faultMove hp hm

/-! ### Acceptance (R76, R99, R165) -/

/-- R58: two ranges that overlap share the higher of their first addresses. -/
theorem exists_shared_of_overlap {b₁ l₁ b₂ l₂ : Nat} (h : overlap b₁ l₁ b₂ l₂ = true) :
    ∃ a, (b₁ ≤ a ∧ a < b₁ + l₁) ∧ (b₂ ≤ a ∧ a < b₂ + l₂) := by
  simp only [overlap, Bool.and_eq_true, decide_eq_true_eq] at h
  exact ⟨max b₁ b₂, by omega⟩

/-- R57, R58: nothing is refused of a command whose ranges lie in memory and, for fd.transfer, share no address. -/
theorem refusalOf_eq_none {k : Instr} {s : State} (inside : ¬ RangeOutside k s)
    (apart : k = .fdTransfer → ¬ overlap s.rxAddr s.rxLen s.txAddr s.txLen = true) : refusalOf k s = none := by
  have noOverlap : ¬ (decide (k = .fdTransfer) && overlap s.rxAddr s.rxLen s.txAddr s.txLen) = true := by
    rw [Bool.and_eq_true, decide_eq_true_eq]
    exact fun ⟨hk, shared⟩ => apart hk shared
  exact (if_neg (mt rangeCheck_iff.mp inside)).trans (if_neg noOverlap)

theorem usesRx_iff_mem {k : Instr} : usesRx k = true ↔
    k ∈ [Instr.fdRead, .hdRead, .fdTransfer, .fdTransferInPlace] := by
  cases k <;> decide

theorem usesTx_iff_mem {k : Instr} : usesTx k = true ↔ k ∈ [Instr.fdWrite, .hdWrite, .fdTransfer] := by
  cases k <;> decide

/-- Settles O16: no acceptance check applies, so the command takes its accept step. -/
theorem acceptedCommandStarts : Obligations.AcceptedCommandStarts := by
  intro k s hp rxInside txInside transfer
  have inside : ¬ RangeOutside k s := by
    rintro (⟨uses, outside⟩ | ⟨uses, outside⟩)
    · exact absurd (rxInside (usesRx_iff_mem.mp uses)) (Nat.not_le.mpr outside)
    · exact absurd (txInside (usesTx_iff_mem.mp uses)) (Nat.not_le.mpr outside)
  have apart (hk : k = .fdTransfer) : ¬ overlap s.rxAddr s.rxLen s.txAddr s.txLen = true := by
    intro shared
    obtain ⟨a, both⟩ := exists_shared_of_overlap shared
    exact (transfer hk).2 a both
  have lengths : lengthsAgree k s = true := decide_eq_true fun hk => (transfer hk).1
  exact StepOf.exec_eq (.accept hp lengths (refusalOf_eq_none inside apart))

end Sys2Proof.Machine
end

section
/-! PROOF. What each phase of a command does (R91 to R105): the next state written out field by field, for the
operations that have the phase. -/

namespace Sys2Proof.Machine

/-! ### The operations by what they do (R95) -/

theorem receives_of_mem {k : Instr} (hk : k ∈ [Instr.fdRead, .fdTransfer, .fdTransferInPlace, .hdRead]) :
    receives k = true := by
  revert hk
  cases k <;> decide

theorem transmitOnly_of_mem {k : Instr} (hk : k ∈ [Instr.fdWrite, .hdWrite]) :
    transmits k = true ∧ receives k = false := by
  revert hk
  cases k <;> decide

theorem receiveOnly_of_mem {k : Instr} (hk : k ∈ [Instr.fdRead, .hdRead]) :
    receives k = true ∧ transmits k = false := by
  revert hk
  cases k <;> decide

theorem movesData_of_mem {k : Instr}
    (hk : k ∈ [Instr.fdRead, .fdWrite, .fdTransfer, .fdTransferInPlace, .hdRead, .hdWrite]) : movesData k = true := by
  revert hk
  cases k <;> decide

/-- R8: a pin layer without errors answers every drive ok. -/
theorem driveAnswer_ok {p : Pin} {v : Level} {s : State} (noErrors : s.params.pinErrors = false) :
    driveAnswer p v s = .ok := by
  simp only [driveAnswer, noErrors]

/-! ### PREP and LOAD -/

/-- Settles O17: the one rule of PREP. -/
theorem prepDrivesSdaHigh : Obligations.PrepDrivesSdaHigh := by
  intro s hp
  exact ⟨driveAnswer .sda Level.high s, driveAnswer_ok, StepOf.exec_eq (.prep hp rfl)⟩

/-- Settles O18: the word counter is at the operation's length. -/
theorem loadEndsAtLength : Obligations.LoadEndsAtLength := by
  intro k s hp rx tx moves
  have atEnd : movesData k = true ∧ s.word = lengthOf k s := by
    cases k with
    | fdRead | hdRead | fdTransfer | fdTransferInPlace => exact ⟨rfl, rx (by decide)⟩
    | fdWrite | hdWrite => exact ⟨rfl, tx (by decide)⟩
    | fdFlush | hdFlush | hdTransfer | hdTransferInPlace => exact absurd (by decide) moves
  exact StepOf.exec_eq (.loadEnd hp atEnd.1 atEnd.2)

/-- Settles O19: LOAD reads the operation's source, and LOAD is the only phase whose rules write `tx`. -/
theorem loadCapturesOutgoingWord : Obligations.LoadCapturesOutgoingWord := by
  refine ⟨?_, fun k s t other e => (exec_next_iff.mp e).tx_eq other⟩
  intro k s a source hp inside
  obtain ⟨ht, more, rfl⟩ : transmits k = true ∧ s.word ≠ lengthOf k s ∧ a = srcOf k s + s.word := by
    obtain ⟨rfl, more, rfl⟩ | ⟨rfl, more, rfl⟩ | ⟨hk, more, rfl⟩ := source
    · exact ⟨rfl, more, rfl⟩
    · exact ⟨rfl, more, rfl⟩
    · simp only [List.mem_cons, List.not_mem_nil, or_false] at hk
      obtain rfl | rfl := hk <;> exact ⟨rfl, more, rfl⟩
  exact StepOf.exec_eq (.loadTx hp ht more (decide_eq_true inside))

/-- Settles O20: the rule of LOAD that reads no memory. -/
theorem loadStartsReceiveOnlyWord : Obligations.LoadStartsReceiveOnlyWord := by
  intro k s hk hp more
  obtain ⟨hr, ht⟩ := receiveOnly_of_mem hk
  have length : lengthOf k s = s.rxLen := (destination_of_receives s hr).2
  exact StepOf.exec_eq (.loadRx hp hr ht (length ▸ more))

/-! ### DRIVE and the pulse -/

/-- R96: DRIVE on the operation's data-out line. -/
theorem exec_drive {k : Instr} {s : State} {p : Pin} (hp : s.phase = .drive) (ht : transmits k = true)
    (line : dout k = p) : exec k s = .next (toPhase .clkLow (drive p (outBit s.tx s.bit) s)) := by
  subst line
  exact StepOf.exec_eq (.drive hp ht)

/-- Settles O21: the one rule of DRIVE, on MOSI and on SDA. -/
theorem driveSendsNextBit : Obligations.DriveSendsNextBit := by
  refine ⟨?mosi, ?sda⟩
  case mosi =>
    intro k s hk hp _
    obtain ⟨ht, line⟩ : transmits k = true ∧ dout k = .mosi := by
      revert hk
      cases k <;> decide
    exact ⟨driveAnswer .mosi (outBit s.tx s.bit) s, driveAnswer_ok, exec_drive hp ht line⟩
  case sda =>
    intro s hp _
    exact ⟨driveAnswer .sda (outBit s.tx s.bit) s, driveAnswer_ok, exec_drive (k := .hdWrite) hp rfl rfl⟩

/-- Settles O22: the one rule of CLK_LOW. -/
theorem clockFalls : Obligations.ClockFalls := by
  intro k s hk hp
  exact ⟨driveAnswer .sck Level.low s, driveAnswer_ok, StepOf.exec_eq (.clkLow hp (movesData_of_mem hk))⟩

/-- Settles O23: the rule of CLK_HIGH for operations that receive. -/
theorem clockRisesBeforeSample : Obligations.ClockRisesBeforeSample := by
  intro k s hk hp
  exact ⟨driveAnswer .sck Level.high s, driveAnswer_ok, StepOf.exec_eq (.clkHighRx hp (receives_of_mem hk))⟩

/-- Settles O24: the two rules of CLK_HIGH for operations that do not receive, by whether the cell is the eighth. -/
theorem clockRiseEndsTransmitCell : Obligations.ClockRiseEndsTransmitCell := by
  intro k s hk hp
  obtain ⟨ht, hr⟩ := transmitOnly_of_mem hk
  refine ⟨driveAnswer .sck Level.high s, driveAnswer_ok, ?_⟩
  by_cases more : s.bit + 1 < 8
  · simp only [more, if_true]
    exact StepOf.exec_eq (.clkHighCell hp ht hr more)
  · simp only [more, if_false]
    exact StepOf.exec_eq (.clkHighWord hp ht hr more)

/-! ### SAMPLE (R100, R101) -/

/-- R100: the shift puts the sample in bit 0. -/
theorem getLsbD_shiftIn_zero (rx : Word) (b : Level) : (shiftIn rx b).getLsbD 0 = b :=
  BitVec.getLsbD_append.trans (by simp)

/-- R100: the shift moves bit `i` up to bit `i + 1`. -/
theorem getLsbD_shiftIn_succ (rx : Word) (b : Level) {i : Nat} (hi : i < 7) :
    (shiftIn rx b).getLsbD (i + 1) = rx.getLsbD i :=
  BitVec.getLsbD_append.trans (by simp [hi])

/-- R101: after at most eight shifts the last sample stands in bit 0 and each earlier one a bit higher. -/
theorem getLsbD_foldl_shiftIn (rx : Word) (l : List Level) (short : l.length ≤ 8) {k : Nat} (hk : k < l.length) :
    (l.foldl shiftIn rx).getLsbD (l.length - 1 - k) = l[k] := by
  induction l using List.reverseRecOn with
  | nil => cases hk
  | append_singleton l b ih =>
    rw [List.length_append, List.length_singleton] at short hk
    simp only [List.foldl_append, List.foldl_cons, List.foldl_nil, List.length_append, List.length_singleton,
      Nat.add_sub_cancel]
    obtain earlier | rfl := Nat.lt_or_eq_of_le (Nat.le_of_lt_succ hk)
    · have index : l.length - k = l.length - 1 - k + 1 := by omega
      rw [index, getLsbD_shiftIn_succ _ _ (by omega), ih (by omega) earlier, List.getElem_append_left earlier]
    · rw [Nat.sub_self, getLsbD_shiftIn_zero, List.getElem_concat_length rfl]

/-- Settles O28: eight shifts, so sample `k` stands in bit `8 - 1 - k`. -/
theorem eightSamplesMakeTheWord : Obligations.EightSamplesMakeTheWord := by
  intro rx l eight k hk
  have bit := getLsbD_foldl_shiftIn rx l (Nat.le_of_eq eight) hk
  rwa [eight] at bit

/-- R100: the shift, with the sample or-ed in. -/
theorem shiftIn_eq_or (rx : Word) (b : Level) : shiftIn rx b = rx <<< 1 ||| (if b then 1#8 else 0#8) := by
  refine BitVec.eq_of_getLsbD_eq fun i hi => ?_
  cases i with
  | zero =>
    rw [getLsbD_shiftIn_zero]
    cases b <;> simp
  | succ i =>
    rw [getLsbD_shiftIn_succ rx b (by omega), BitVec.getLsbD_eq_getElem (by omega)]
    cases b <;> simp [hi]

/-- R15: a sample is 1 exactly for the answer high. -/
theorem levelOf_eq_high_iff (a : SampleAnswer) : levelOf a = true ↔ a = .high := by
  cases a <;> decide

theorem SampleAnswer.allowed_false_ne_err (a : SampleAnswer) : SampleAnswer.allowed false a ≠ .err := by
  cases a <;> decide

theorem SampleAnswer.allowed_eq_self {pinErrors : Bool} {a : SampleAnswer} (possible : pinErrors = true ∨ a ≠ .err) :
    SampleAnswer.allowed pinErrors a = a := by
  revert possible
  cases pinErrors <;> cases a <;> decide

/-- R8: without pin errors no sample is answered err. -/
theorem sampleAnswer_ne_err {p : Pin} {s : State} (noErrors : s.params.pinErrors = false) :
    sampleAnswer p s ≠ .err := by
  rw [sampleAnswer, noErrors]
  exact SampleAnswer.allowed_false_ne_err _

/-- Log 3: a given answer that the slave may give is its answer. -/
theorem sampleAnswer_of_script {p : Pin} {s : State} {a : SampleAnswer} {rest : List SampleAnswer}
    (script : s.sampleScript = a :: rest) (possible : s.params.pinErrors = true ∨ a ≠ .err) : sampleAnswer p s = a := by
  rw [sampleAnswer, script]
  exact SampleAnswer.allowed_eq_self possible

/-- Settles O25: the two rules of SAMPLE, by whether the cell is the eighth. -/
theorem sampleShiftsAnswerIn : Obligations.SampleShiftsAnswerIn := by
  intro k s hk hp
  have hr := receives_of_mem hk
  have line : din k = if k = .hdRead then .sda else .miso := by
    revert hk
    cases k <;> decide
  have again : (if transmits k then Phase.drive else .clkLow) =
      if k ∈ [Instr.fdRead, .hdRead] then .clkLow else .drive := by
    revert hk
    cases k <;> decide
  have shift : (s.rx <<< 1) ||| (if sampleAnswer (din k) s = .high then 1#8 else 0#8) =
      shiftIn s.rx (levelOf (sampleAnswer (din k) s)) := by
    simp only [shiftIn_eq_or, levelOf_eq_high_iff]
  refine ⟨sampleAnswer (din k) s, sampleAnswer_ne_err, fun b rest => sampleAnswer_of_script, ?_⟩
  rw [shift, ← line, ← again]
  by_cases more : s.bit + 1 < 8
  · simp only [more, if_true]
    exact StepOf.exec_eq (.sampleCell hp hr more)
  · simp only [more, if_false]
    exact StepOf.exec_eq (.sampleWord hp hr more)

/-! ### STORE and DONE -/

/-- Settles O26: the one rule of STORE, and the laws of memory. -/
theorem storeWritesReceivedWord : Obligations.StoreWritesReceivedWord := by
  intro k s hk hp inside
  exact ⟨s.mem.write (s.rxAddr + s.word) s.rx, Memory.read_write_same _ _ _, fun a ha => Memory.read_write_other _ _ ha,
    StepOf.exec_eq (.store hp (receives_of_mem hk) (decide_eq_true inside))⟩

/-- Settles O27: the one rule of DONE. -/
theorem doneCompletesCommand : Obligations.DoneCompletesCommand :=
  fun _ _ hp => StepOf.exec_eq (.done hp)

end Sys2Proof.Machine
end

section
/-! PROOF. What a transmitting command puts on the data lines (R54, R55, R96, R102): the levels driven are read off the loops
of R104, cell by cell and word by word. -/

namespace Sys2Proof.Machine

/-! ### Values found in the new part of a history -/

/-- From `s` to `t` the history gains events in which `f` finds the values `l`, oldest first. -/
def Gains {α : Type} (f : Event → Option α) (s t : State) (l : List α) : Prop :=
  ∃ new : List Event, t.history = new ++ s.history ∧ new.reverse.filterMap f = l

section
variable {α : Type} {f : Event → Option α} {s t u : State}

theorem Gains.of_history_eq (same : t.history = s.history) : Gains f s t [] := ⟨[], same, rfl⟩

theorem Gains.of_cons {e : Event} (added : t.history = e :: s.history) : Gains f s t (f e).toList := by
  refine ⟨[e], added, ?_⟩
  cases h : f e <;> simp [h]

theorem Gains.trans {l l' : List α} (first : Gains f s t l) (second : Gains f t u l') : Gains f s u (l ++ l') := by
  obtain ⟨new, ht, rfl⟩ := first
  obtain ⟨new', hu, rfl⟩ := second
  exact ⟨new' ++ new, by rw [hu, ht, List.append_assoc], by rw [List.reverse_append, List.filterMap_append]⟩

end

/-- The level an event drives onto `p`. -/
def drivenOn (p : Pin) : Event → Option Level
  | .drive q v _ => if q = p then some v else none
  | .sample _ _ | .memRead _ _ | .memWrite _ _ | .complete _ | .fault _ => none

/-- The answer an event records of a sample. -/
def answerOf : Event → Option SampleAnswer
  | .sample _ a => some a
  | .drive _ _ _ | .memRead _ _ | .memWrite _ _ | .complete _ | .fault _ => none

theorem drivenLevels_eq (p : Pin) (h : List Event) : drivenLevels p h = h.reverse.filterMap (drivenOn p) := rfl

theorem samplesOf_eq (h : List Event) : samplesOf h = h.reverse.filterMap answerOf := rfl

/-! ### What is driven onto a line (R26 to R28) -/

/-- The level on record of a line the engine drives. -/
def lineLevel : Pin → State → Option Level
  | .sck, s => some s.sck
  | .mosi, s => s.mosi
  | .sda, s => some s.sda
  | .miso, _ => none

/-- From `s` to `t` the levels `l` are driven onto `p`, and the last of them is then the one on record. -/
structure Sends (p : Pin) (s t : State) (l : List Level) : Prop where
  driven : Gains (drivenOn p) s t l
  level  : lineLevel p t = l.getLast?.or (lineLevel p s)

section
variable {p : Pin} {s t u : State}

/-- Updates that drive no line send nothing. -/
theorem Sends.of_lines_eq (quiet : Gains (drivenOn p) s t []) (sck : t.sck = s.sck) (mosi : t.mosi = s.mosi)
    (sda : t.sda = s.sda) : Sends p s t [] := by
  refine ⟨quiet, ?_⟩
  cases p <;> simp [lineLevel, sck, mosi, sda]

/-- Updates of what is neither a line nor the history send nothing. -/
theorem Sends.of_silent (history : t.history = s.history) (sck : t.sck = s.sck) (mosi : t.mosi = s.mosi)
    (sda : t.sda = s.sda) : Sends p s t [] :=
  .of_lines_eq (.of_history_eq history) sck mosi sda

theorem Sends.refl : Sends p s s [] := .of_silent rfl rfl rfl rfl

theorem Sends.trans {l l' : List Level} (first : Sends p s t l) (second : Sends p t u l') : Sends p s u (l ++ l') :=
  ⟨first.driven.trans second.driven, by rw [second.level, first.level, List.getLast?_append, Option.or_assoc]⟩

/-- A drive of a line is sent on that line alone. MISO is no line the engine drives (R20). -/
theorem sends_drive (engineLine : p ≠ .miso) (q : Pin) (v : Level) (s : State) :
    Sends p s (drive q v s) (if q = p then [v] else []) := by
  constructor
  · have gained : Gains (drivenOn p) s (drive q v s) _ := .of_cons (drive_history q v s)
    simpa only [drivenOn, apply_ite Option.toList, Option.toList_some, Option.toList_none] using gained
  · by_cases same : q = p
    · subst same
      cases q <;> simp_all [lineLevel]
    · cases p <;> simp_all [lineLevel, eq_comm]

end

/-! ### What a transmitting command sends (R54, R55, R96) -/

/-- The levels a command puts on `p`: those of its data-out line, and none on another. -/
def onLine (k : Instr) (p : Pin) (l : List Level) : List Level := if dout k = p then l else []

@[simp] theorem onLine_nil (k : Instr) (p : Pin) : onLine k p [] = [] := ite_self _

theorem onLine_same {k : Instr} {p : Pin} (own : dout k = p) (l : List Level) : onLine k p l = l := if_pos own

theorem onLine_other {k : Instr} {p : Pin} (other : dout k ≠ p) (l : List Level) : onLine k p l = [] := if_neg other

theorem onLine_append (k : Instr) (p : Pin) (l l' : List Level) : onLine k p (l ++ l') = onLine k p l ++ onLine k p l' := by
  unfold onLine
  split <;> rfl

/-- The lines beside the clock that an engine drives (R20, R21). -/
def IsDataLine (p : Pin) : Prop := p ≠ .sck ∧ p ≠ .miso

theorem sends_sampleBit (k : Instr) (p : Pin) (s : State) : Sends p s (sampleBit k s) [] := by
  unfold sampleBit
  split
  · exact .of_lines_eq (.of_cons (sampleShift_history _ s)) rfl rfl rfl
  · exact .of_silent rfl rfl rfl rfl

theorem sends_loadWord (k : Instr) (p : Pin) (s : State) : Sends p s (loadWord k s) [] := by
  unfold loadWord
  split
  · exact .of_lines_eq (.of_cons (loadTx_history _ _)) rfl rfl rfl
  · exact .of_silent rfl rfl rfl rfl

theorem sends_storeWord (k : Instr) (p : Pin) (s : State) : Sends p s (storeWord k s) [] := by
  unfold storeWord
  split
  · exact .of_lines_eq (.of_cons (storeRx_history _ s)) rfl rfl rfl
  · exact .of_silent rfl rfl rfl rfl

section
variable {k : Instr} {p : Pin}

/-- R96: a cell sends its bit. -/
theorem sends_bitCell (ht : transmits k = true) (line : IsDataLine p) (s : State) :
    Sends p s (bitCell k s) (onLine k p [outBit s.tx s.bit]) := by
  have notClock : ¬ Pin.sck = p := Ne.symm line.1
  have driven : Sends p s (driveBit k s) (onLine k p [outBit s.tx s.bit]) := by
    rw [driveBit, if_pos ht]
    exact sends_drive line.2 _ _ s
  have clock (v : Level) (s : State) : Sends p s (drive .sck v s) [] := by
    simpa only [notClock, if_false] using sends_drive line.2 .sck v s
  have ended (s : State) : Sends p s (endCell s) [] := .of_silent rfl rfl rfl rfl
  rw [bitCell_eq]
  simpa only [List.append_nil] using
    (((driven.trans (clock _ _)).trans (clock _ _)).trans (sends_sampleBit k p _)).trans (ended _)

/-- R96: `n` cells send the next `n` bits of the outgoing word. -/
theorem sends_bitCells (ht : transmits k = true) (line : IsDataLine p) (n : Nat) (s : State) :
    Sends p s (bitCells k n s) (onLine k p ((List.range n).map fun j => outBit s.tx (s.bit + j))) := by
  induction n generalizing s with
  | zero => exact (onLine_nil k p).symm ▸ Sends.refl
  | succ n ih =>
    obtain ⟨bit, -, -, -, -, -, -, -, -, tx⟩ := bitCell_frame k s
    have later := ih (bitCell k s)
    rw [bit, tx] at later
    have bits : ((List.range (n + 1)).map fun j => outBit s.tx (s.bit + j)) =
        [outBit s.tx s.bit] ++ (List.range n).map fun j => outBit s.tx (s.bit + 1 + j) := by
      simp [List.range_succ_eq_map, Function.comp_def, Nat.add_assoc, Nat.add_comm 1]
    rw [bits, onLine_append]
    exact (sends_bitCell ht line s).trans later

/-- R55, R102: a word sends the bits of the word at its place in the source buffer. -/
theorem sends_wordLoop (ht : transmits k = true) (line : IsDataLine p) (s : State) :
    Sends p s (wordLoop k s) (onLine k p (wireBits (s.mem.read (srcOf k s + s.word)))) := by
  have cells := sends_bitCells ht line 8 (loadWord k s)
  have bits : ((List.range 8).map fun j => outBit (loadWord k s).tx ((loadWord k s).bit + j)) =
      wireBits (s.mem.read (srcOf k s + s.word)) := by
    simp [loadWord, ht, outBit, wireBits]
  rw [bits] at cells
  have ended (s : State) : Sends p s (endWord s) [] := .of_silent rfl rfl rfl rfl
  rw [wordLoop_eq]
  simpa only [List.append_nil, List.nil_append] using
    (((sends_loadWord k p s).trans cells).trans (sends_storeWord k p _)).trans (ended _)

end

/-! ### The source words of a command in progress (R54, R57, R58) -/

/-- R58: the ranges of an accepted fd.transfer share no address. -/
theorem not_shared_of_passed {s : State} {a : Nat} (passed : refusalOf .fdTransfer s = none)
    (inRx : s.rxAddr ≤ a ∧ a < s.rxAddr + s.rxLen) : ¬ (s.txAddr ≤ a ∧ a < s.txAddr + s.txLen) := by
  intro inTx
  rw [refusalOf_of_sharedAddress (not_rangeOutside_of_passed passed) inRx inTx] at passed
  cases passed

/-- R103: a word writes its place in the RX range, or nothing. -/
theorem wordLoop_mem (k : Instr) (s : State) :
    (wordLoop k s).mem =
      if receives k then s.mem.write (s.rxAddr + s.word) (bitCells k 8 (loadWord k s)).rx else s.mem := by
  obtain ⟨-, word, -, -, rxAddr, -, -, -, mem, -⟩ := bitCells_frame k 8 (loadWord k s)
  obtain ⟨word', -, -, rxAddr', -⟩ := loadWord_frame k s
  have mem' : (loadWord k s).mem = s.mem := by
    unfold loadWord
    split <;> rfl
  rw [wordLoop_eq, endWord_mem, storeWord]
  split
  · rw [storeRx_mem, mem, mem', rxAddr, rxAddr', word, word']
  · rw [mem, mem']

/-- R54, R58: a word leaves the source words after it as they are. -/
theorem UnderWay.later_source_kept {k : Instr} {s : State} (way : UnderWay k s) (ht : transmits k = true) {i : Nat}
    (later : s.word < i) (inside : i < lengthOf k s) :
    (wordLoop k s).mem.read (srcOf k s + i) = s.mem.read (srcOf k s + i) := by
  rw [wordLoop_mem]
  split
  next hr =>
    refine Memory.read_write_other _ _ ?_
    have length := (destination_of_receives s hr).2
    obtain rfl | rfl : k = .fdTransfer ∨ k = .fdTransferInPlace := by
      revert ht hr
      cases k <;> decide
    · intro same
      have lengths : s.rxLen = s.txLen := of_decide_eq_true way.lengths rfl
      have source : srcOf .fdTransfer s = s.txAddr := rfl
      exact not_shared_of_passed (a := s.rxAddr + s.word) way.passed (by omega) (by omega)
    · have source : srcOf .fdTransferInPlace s = s.rxAddr := rfl
      omega
  next => rfl

/-- R54, R55: the bits of `n` words of the source buffer, from word `w` on. -/
def sourceBits (k : Instr) (w n : Nat) (s : State) : List Level :=
  (List.range n).flatMap fun i => wireBits (s.mem.read (srcOf k s + (w + i)))

theorem sourceBits_succ (k : Instr) (w n : Nat) (s : State) :
    sourceBits k w (n + 1) s = wireBits (s.mem.read (srcOf k s + w)) ++ sourceBits k (w + 1) n s := by
  simp [sourceBits, List.range_succ_eq_map, List.flatMap_map, Nat.add_assoc, Nat.add_comm 1]

/-- R54: `n` words send the bits of the source words as they stand before the first. -/
theorem UnderWay.sends_wordsLoop {k : Instr} {p : Pin} (ht : transmits k = true) (line : IsDataLine p) (n : Nat) {s : State}
    (way : UnderWay k s) (room : s.word + n ≤ lengthOf k s) :
    Sends p s (wordsLoop k n s) (onLine k p (sourceBits k s.word n s)) := by
  induction n generalizing s with
  | zero => exact (onLine_nil k p).symm ▸ Sends.refl
  | succ n ih =>
    obtain ⟨word, params, -, rxAddr, rxLen, txAddr, txLen⟩ := wordLoop_frame k s
    obtain ⟨length, source, -⟩ := operands_congr (k := k) params rxAddr rxLen txAddr txLen
    have later : sourceBits k (s.word + 1) n (wordLoop k s) = sourceBits k (s.word + 1) n s := by
      refine List.flatMap_congr fun i hi => ?_
      rw [source, way.later_source_kept ht (by omega) (by have := List.mem_range.mp hi; omega)]
    have rest := ih way.after_wordLoop (by omega)
    rw [word, later] at rest
    rw [sourceBits_succ, onLine_append]
    exact (sends_wordLoop ht line s).trans rest

/-- R104: a whole transmitting command sends the words of its source buffer, as they stood before it. -/
theorem sends_bitloop {k : Instr} {p : Pin} {s : State} (ht : transmits k = true) (line : IsDataLine p)
    (wf : k.wf s.params.variant = true) (acc : Acceptable k s) :
    Sends p s (bitloop k s) (onLine k p (sourceBits k 0 (lengthOf k s) s)) := by
  have notRead : k ≠ .hdRead := by
    rintro rfl
    cases ht
  have words := (underWay_accepted wf acc).sends_wordsLoop (p := p) ht line (lengthOf k s) (by simp)
  have accepts : Sends p s (accepted k s) [] := .of_silent rfl rfl rfl rfl
  have completes (s : State) : Sends p s (completeCommand s) [] :=
    .of_lines_eq (.of_cons (completeCommand_history s)) rfl rfl rfl
  have source : sourceBits k (accepted k s).word (lengthOf k s) (accepted k s) = sourceBits k 0 (lengthOf k s) s := by
    simp [sourceBits]
  rw [source] at words
  rw [bitloop_eq, prepare, if_neg notRead]
  simpa only [List.nil_append, List.append_nil] using (accepts.trans words).trans (completes _)

theorem transmits_of_mem {k : Instr} (hk : k ∈ [Instr.fdWrite, .fdTransfer, .fdTransferInPlace, .hdWrite]) :
    transmits k = true := by
  revert hk
  cases k <;> decide

theorem srcOf_eq (k : Instr) (s : State) : srcOf k s = if k = .fdTransferInPlace then s.rxAddr else s.txAddr := by
  cases k <;> rfl

theorem isDataLine_mosi : IsDataLine .mosi := ⟨by decide, by decide⟩

theorem isDataLine_sda : IsDataLine .sda := ⟨by decide, by decide⟩

theorem isDataLine_dout (k : Instr) : IsDataLine (dout k) := by
  cases k <;> exact ⟨by decide, by decide⟩

/-- Settles O44: the command runs to what the loops do, and they send the source words on the data-out line. -/
theorem transmittedBitsAreTheWords : Obligations.TransmittedBitsAreTheWords := by
  intro k s hk wf acc
  have ht := transmits_of_mem hk
  obtain ⟨t, accepts, completes⟩ := everyCommandCompletes k s wf acc
  obtain ⟨⟨new, history, driven⟩, -⟩ := sends_bitloop ht (isDataLine_dout k) wf acc
  have line : dout k = if k = .hdWrite then .sda else .mosi := by
    revert hk
    cases k <;> decide
  refine ⟨t, _, new, accepts, completes, rfl, history, ?_⟩
  rw [drivenLevels_eq, ← line, driven, ← srcOf_eq, onLine_same rfl]
  simp only [sourceBits, Nat.zero_add]

theorem getLast?_wireBits (w : Word) : (wireBits w).getLast? = some (w.getLsbD 0) := by
  simp [wireBits, List.range_succ]

/-- R55: the last bit of a source buffer is bit 0 of its last word. -/
theorem getLast?_sourceBits (k : Instr) (n : Nat) (s : State) :
    (sourceBits k 0 (n + 1) s).getLast? = some ((s.mem.read (srcOf k s + n)).getLsbD 0) := by
  simp [sourceBits, List.range_succ, getLast?_wireBits]

/-- Settles O45: a data line holds the last level sent on it, and a command sends on its data-out line alone. -/
theorem transmitLeavesLastBit : Obligations.TransmitLeavesLastBit := by
  intro k s hk wf acc
  have ht := transmits_of_mem hk
  obtain ⟨t, accepts, completes⟩ := everyCommandCompletes k s wf acc
  have mosi : (bitloop k s).mosi = _ := (sends_bitloop ht isDataLine_mosi wf acc).level
  have sda : some (bitloop k s).sda = _ := (sends_bitloop ht isDataLine_sda wf acc).level
  refine ⟨t, _, accepts, completes, fun empty => ?empty, fun n length => ?last⟩
  case empty =>
    have none : sourceBits k 0 (lengthOf k s) s = [] := by rw [empty]; rfl
    rw [none, onLine_nil] at mosi sda
    exact ⟨mosi, Option.some.inj sda⟩
  case last =>
    rw [length] at mosi sda
    simp only [← srcOf_eq]
    obtain ⟨-, line⟩ | ⟨rfl, line⟩ := dout_of_transmits ht
    · have notWrite : k ≠ .hdWrite := by
        rintro rfl
        cases line
      rw [onLine_same line, getLast?_sourceBits] at mosi
      rw [onLine_other (by rw [line]; decide)] at sda
      rw [if_neg notWrite]
      exact ⟨mosi, Option.some.inj sda⟩
    · rw [onLine_same line, getLast?_sourceBits] at sda
      rw [onLine_other (by rw [line]; decide)] at mosi
      exact ⟨Option.some.inj sda, mosi⟩

end Sys2Proof.Machine
end

section
/-! PROOF. What a receiving command stores (R100 to R103): eight answers of the slave make a word, word by word, and a slave
that answers with the bits it is sent leaves buffer memory as it was (R128). -/

namespace Sys2Proof.Machine

/-! ### What is taken from the slave (R14, R100) -/

/-- From `s` to `t` the answers `got` are taken from the slave: they are on record, and where as many are given, none of
them err, they are the given ones and those are used up (log 3). -/
structure Takes (s t : State) (got : List SampleAnswer) : Prop where
  recorded : Gains answerOf s t got
  scripted : ∀ given rest, s.sampleScript = given ++ rest → given.length = got.length → (∀ a ∈ given, a ≠ .err) →
    got = given ∧ t.sampleScript = rest

section
variable {s t u : State}

/-- Updates that take no sample. -/
theorem Takes.of_script_eq (quiet : Gains answerOf s t []) (script : t.sampleScript = s.sampleScript) : Takes s t [] := by
  refine ⟨quiet, fun given rest split length _ => ?_⟩
  obtain rfl := List.eq_nil_of_length_eq_zero length
  exact ⟨rfl, script.trans split⟩

/-- Updates of what is neither the history nor the slave's script. -/
theorem Takes.of_silent (history : t.history = s.history) (script : t.sampleScript = s.sampleScript) : Takes s t [] :=
  .of_script_eq (.of_history_eq history) script

theorem Takes.refl : Takes s s [] := .of_silent rfl rfl

theorem Takes.trans {got got' : List SampleAnswer} (first : Takes s t got) (second : Takes t u got') :
    Takes s u (got ++ got') := by
  refine ⟨first.recorded.trans second.recorded, fun given rest split length valid => ?_⟩
  rw [List.length_append] at length
  obtain ⟨early, late, rfl, early_length⟩ : ∃ early late, given = early ++ late ∧ early.length = got.length :=
    ⟨given.take got.length, given.drop got.length, (List.take_append_drop ..).symm, by simp; omega⟩
  rw [List.length_append, early_length, Nat.add_left_cancel_iff] at length
  rw [List.append_assoc] at split
  obtain ⟨rfl, split'⟩ := first.scripted early _ split early_length fun a ha => valid a (List.mem_append_left _ ha)
  obtain ⟨rfl, used⟩ := second.scripted late _ split' length fun a ha => valid a (List.mem_append_right _ ha)
  exact ⟨rfl, used⟩

theorem takes_drive (p : Pin) (v : Level) (s : State) : Takes s (drive p v s) [] :=
  .of_script_eq (.of_cons (drive_history p v s)) rfl

/-- R14: a sample takes one answer. -/
theorem takes_sampleShift (p : Pin) (s : State) : Takes s (sampleShift p s) [sampleAnswer p s] := by
  refine ⟨.of_cons (sampleShift_history p s), fun given rest split length valid => ?_⟩
  obtain ⟨a, rfl⟩ := List.length_eq_one_iff.mp length
  have answer : sampleAnswer p s = a := sampleAnswer_of_script split (.inr (valid a (List.mem_singleton_self a)))
  exact ⟨congrArg (fun x => [x]) answer, by rw [sampleShift_sampleScript, split]; rfl⟩

end

/-! ### What the answers build (R100, R101, R103) -/

section
variable {k : Instr}

theorem takes_driveBit (k : Instr) (s : State) : Takes s (driveBit k s) [] := by
  unfold driveBit
  split
  · exact takes_drive _ _ s
  · exact .refl

theorem takes_loadWord (k : Instr) (s : State) : Takes s (loadWord k s) [] := by
  unfold loadWord
  split
  · exact .of_script_eq (.of_cons (loadTx_history _ _)) rfl
  · exact .of_silent rfl rfl

theorem takes_storeWord (k : Instr) (s : State) : Takes s (storeWord k s) [] := by
  unfold storeWord
  split
  · exact .of_script_eq (.of_cons (storeRx_history _ s)) rfl
  · exact .refl

theorem takes_prepare (k : Instr) (s : State) : Takes s (prepare k s) [] := by
  unfold prepare
  split
  · exact takes_drive _ _ s
  · exact .refl

theorem driveBit_rx (k : Instr) (s : State) : (driveBit k s).rx = s.rx := by
  unfold driveBit
  split <;> rfl

theorem loadWord_rx (k : Instr) (s : State) : (loadWord k s).rx = 0#8 := by
  unfold loadWord
  split <;> rfl

theorem prepare_mem (k : Instr) (s : State) : (prepare k s).mem = s.mem := by
  unfold prepare
  split <;> rfl

theorem prepare_rxAddr (k : Instr) (s : State) : (prepare k s).rxAddr = s.rxAddr := by
  unfold prepare
  split <;> rfl

/-- R100: a cell takes one answer and shifts it in. -/
theorem takes_bitCell (hr : receives k = true) (s : State) :
    ∃ a, Takes s (bitCell k s) [a] ∧ (bitCell k s).rx = shiftIn s.rx (levelOf a) := by
  have ended (s : State) : Takes s (endCell s) [] := .of_silent rfl rfl
  have pulsed := ((takes_driveBit k s).trans (takes_drive .sck Level.low _)).trans (takes_drive .sck Level.high _)
  rw [bitCell_eq, sampleBit, if_pos hr]
  refine ⟨_, (pulsed.trans (takes_sampleShift (din k) _)).trans (ended _), ?_⟩
  rw [endCell_rx, sampleShift_rx, drive_rx, drive_rx, driveBit_rx]

/-- R100: `n` cells take `n` answers and shift them in. -/
theorem takes_bitCells (hr : receives k = true) (n : Nat) (s : State) :
    ∃ got, got.length = n ∧ Takes s (bitCells k n s) got ∧ (bitCells k n s).rx = (got.map levelOf).foldl shiftIn s.rx := by
  induction n generalizing s with
  | zero => exact ⟨[], rfl, .refl, rfl⟩
  | succ n ih =>
    obtain ⟨a, takes, rx⟩ := takes_bitCell hr s
    obtain ⟨got, length, takes', rx'⟩ := ih (bitCell k s)
    exact ⟨a :: got, congrArg (· + 1) length, takes.trans takes', rx'.trans (by rw [rx]; rfl)⟩

/-- R101, R103: a word takes eight answers and stores the word they build. -/
theorem takes_wordLoop (hr : receives k = true) (s : State) :
    ∃ got, got.length = 8 ∧ Takes s (wordLoop k s) got ∧
      (wordLoop k s).mem = s.mem.write (s.rxAddr + s.word) (wordOfSamples (got.map levelOf)) := by
  obtain ⟨got, length, takes, rx⟩ := takes_bitCells hr 8 (loadWord k s)
  have ended (s : State) : Takes s (endWord s) [] := .of_silent rfl rfl
  refine ⟨got, length, ?_, ?_⟩
  · rw [wordLoop_eq]
    simpa only [List.append_nil, List.nil_append] using
      (((takes_loadWord k s).trans takes).trans (takes_storeWord k _)).trans (ended _)
  · rw [wordLoop_mem, if_pos hr, rx, loadWord_rx]
    rfl

end

/-! ### The words of a receive buffer (R54, R103) -/

/-- `m'` is `m` with the `n` bytes from `base` on replaced by those of `w`. -/
structure Fills (n base : Nat) (w : Nat → Word) (m m' : Memory) : Prop where
  inside  : ∀ i, i < n → m'.read (base + i) = w i
  outside : ∀ a, a < base ∨ base + n ≤ a → m'.read a = m.read a

/-- A buffer is filled by its first byte and then the others. -/
theorem Fills.cons {n base : Nat} {w : Nat → Word} {m m' : Memory}
    (rest : Fills n (base + 1) (fun i => w (i + 1)) (m.write base (w 0)) m') : Fills (n + 1) base w m m' := by
  constructor
  · intro i hi
    cases i with
    | zero => exact (rest.outside base (.inl (Nat.lt_succ_self base))).trans (Memory.read_write_same ..)
    | succ i =>
      rw [← rest.inside i (Nat.lt_of_succ_lt_succ hi)]
      congr 1
      omega
  · intro a ha
    rw [rest.outside a (by omega)]
    exact Memory.read_write_other _ _ (by omega)

/-- R101: the word that answers `8 i` to `8 i + 7` build. -/
def wordOfAnswers (got : List SampleAnswer) (i : Nat) : Word := wordOfSamples (((got.drop (8 * i)).take 8).map levelOf)

theorem wordOfAnswers_append_zero {first : List SampleAnswer} (eight : first.length = 8) (rest : List SampleAnswer) :
    wordOfAnswers (first ++ rest) 0 = wordOfSamples (first.map levelOf) := by
  rw [wordOfAnswers, Nat.mul_zero, List.drop_zero, ← eight, List.take_left]

theorem wordOfAnswers_append_succ {first : List SampleAnswer} (eight : first.length = 8) (rest : List SampleAnswer)
    (i : Nat) : wordOfAnswers (first ++ rest) (i + 1) = wordOfAnswers rest i := by
  rw [wordOfAnswers, Nat.mul_succ, Nat.add_comm, ← List.drop_drop, ← eight, List.drop_left, eight, wordOfAnswers]

/-- R103: `n` words take `8 n` answers and fill their places in the RX range with the words these build. -/
theorem takes_wordsLoop {k : Instr} (hr : receives k = true) (n : Nat) (s : State) :
    ∃ got, got.length = 8 * n ∧ Takes s (wordsLoop k n s) got ∧
      Fills n (s.rxAddr + s.word) (wordOfAnswers got) s.mem (wordsLoop k n s).mem := by
  induction n generalizing s with
  | zero => exact ⟨[], rfl, .refl, fun _ hi => absurd hi (Nat.not_lt_zero _), fun _ _ => rfl⟩
  | succ n ih =>
    obtain ⟨first, eight, takes, mem⟩ := takes_wordLoop hr s
    obtain ⟨got, length, takes', fills⟩ := ih (wordLoop k s)
    obtain ⟨word, -, -, rxAddr, -⟩ := wordLoop_frame k s
    refine ⟨first ++ got, by rw [List.length_append]; omega, takes.trans takes', .cons ?_⟩
    rw [mem, word, rxAddr] at fills
    simpa only [wordOfAnswers_append_zero eight, wordOfAnswers_append_succ eight, wordsLoop, Nat.add_assoc] using fills

/-- R120, R124, R127, R140: a whole receiving command takes eight answers a word and fills its RX range with the words
they build. -/
theorem takes_bitloop {k : Instr} (hr : receives k = true) (s : State) :
    ∃ got, got.length = 8 * s.rxLen ∧ Takes s (bitloop k s) got ∧
      Fills s.rxLen s.rxAddr (wordOfAnswers got) s.mem (bitloop k s).mem := by
  obtain ⟨got, length, takes, fills⟩ := takes_wordsLoop hr s.rxLen (prepare k (accepted k s))
  have accepts : Takes s (accepted k s) [] := .of_silent rfl rfl
  have completes (s : State) : Takes s (completeCommand s) [] := .of_script_eq (.of_cons (completeCommand_history s)) rfl
  rw [bitloop_eq, (destination_of_receives s hr).2]
  refine ⟨got, length, ?_, ?_⟩
  · simpa only [List.append_nil, List.nil_append] using
      ((accepts.trans (takes_prepare k _)).trans takes).trans (completes _)
  · simpa only [completeCommand_mem, prepare_mem, prepare_rxAddr, prepare_word, accepted_mem, accepted_rxAddr,
      accepted_word, Nat.add_zero] using fills

/-- Settles O43: the command runs to what the loops do, and they store the words that the recorded samples build. -/
theorem receivedWordsAreTheSamples : Obligations.ReceivedWordsAreTheSamples := by
  intro k s hk wf acc
  have hr := receives_of_mem hk
  obtain ⟨t, accepts, completes⟩ := everyCommandCompletes k s wf acc
  obtain ⟨got, length, ⟨⟨new, history, samples⟩, -⟩, fills⟩ := takes_bitloop hr s
  rw [(destination_of_receives s hr).2] at completes
  refine ⟨t, _, new, accepts, completes, rfl, history, ?_⟩
  rw [samplesOf_eq, samples]
  exact ⟨length, fills.inside, fills.outside⟩

/-! ### The loopback law (R128) -/

/-- R55, R101: the samples of the bits of a word, bit 7 first, build that word. -/
theorem wordOfSamples_wireBits (w : Word) : wordOfSamples (wireBits w) = w := by
  refine BitVec.eq_of_getLsbD_eq fun i hi => ?_
  have length : (wireBits w).length = 8 := by simp [wireBits]
  have bit := eightSamplesMakeTheWord 0#8 (wireBits w) length (7 - i) (by omega)
  have index : 7 - (7 - i) = i := by omega
  rw [index] at bit
  rw [wordOfSamples, bit]
  simp [wireBits, index]

/-- The answers of a slave that loops back the bits of a word. -/
def loopbackAnswers (w : Word) : List SampleAnswer := (wireBits w).map fun b => if b then .high else .low

theorem length_loopbackAnswers (w : Word) : (loopbackAnswers w).length = 8 := by
  simp [loopbackAnswers, wireBits]

theorem map_levelOf_loopbackAnswers (w : Word) : (loopbackAnswers w).map levelOf = wireBits w := by
  rw [loopbackAnswers, List.map_map]
  refine List.map_id'' (fun b => ?_) _
  cases b <;> rfl

/-- The answers of a slave that loops back the bits of the words `w 0` to `w (n - 1)`. -/
def loopbackScript (n : Nat) (w : Nat → Word) : List SampleAnswer := (List.range n).flatMap fun i => loopbackAnswers (w i)

theorem loopbackScript_succ (n : Nat) (w : Nat → Word) :
    loopbackScript (n + 1) w = loopbackAnswers (w 0) ++ loopbackScript n fun i => w (i + 1) := by
  simp [loopbackScript, List.range_succ_eq_map, List.flatMap_map]

theorem length_loopbackScript (n : Nat) (w : Nat → Word) : (loopbackScript n w).length = 8 * n := by
  simp [loopbackScript, length_loopbackAnswers, Nat.mul_comm]

theorem ne_err_of_mem_loopbackScript {n : Nat} {w : Nat → Word} {a : SampleAnswer} (ha : a ∈ loopbackScript n w) :
    a ≠ .err := by
  obtain ⟨i, -, ha⟩ := List.mem_flatMap.mp ha
  obtain ⟨b, -, rfl⟩ := List.mem_map.mp ha
  cases b <;> decide

/-- Word by word, the looped back answers build the words sent. -/
theorem wordOfAnswers_loopbackScript (w : Nat → Word) {n i : Nat} (hi : i < n) :
    wordOfAnswers (loopbackScript n w) i = w i := by
  induction n generalizing w i with
  | zero => cases hi
  | succ n ih =>
    rw [loopbackScript_succ]
    cases i with
    | zero =>
      rw [wordOfAnswers_append_zero (length_loopbackAnswers _), map_levelOf_loopbackAnswers, wordOfSamples_wireBits]
    | succ i =>
      rw [wordOfAnswers_append_succ (length_loopbackAnswers _)]
      exact ih (fun j => w (j + 1)) (Nat.lt_of_succ_lt_succ hi)

/-- Settles O48: the answers taken are the given ones, so each word stored is the word that was there. -/
theorem loopbackKeepsTheBuffer : Obligations.LoopbackKeepsTheBuffer := by
  intro s rest wf acc script
  obtain ⟨t, accepts, completes⟩ := everyCommandCompletes .fdTransferInPlace s wf acc
  obtain ⟨got, length, takes, fills⟩ := takes_bitloop (k := .fdTransferInPlace) rfl s
  have count : (loopbackScript s.rxLen fun i => s.mem.read (s.rxAddr + i)).length = got.length := by
    rw [length_loopbackScript, length]
  obtain ⟨rfl, used⟩ := takes.scripted _ rest script count fun _ => ne_err_of_mem_loopbackScript
  refine ⟨t, _, accepts, completes, used, fun a => ?_⟩
  by_cases inside : s.rxAddr ≤ a ∧ a < s.rxAddr + s.rxLen
  · obtain ⟨i, rfl⟩ := Nat.exists_eq_add_of_le inside.1
    have hi : i < s.rxLen := Nat.lt_of_add_lt_add_left inside.2
    exact (fills.inside i hi).trans (wordOfAnswers_loopbackScript (fun j => s.mem.read (s.rxAddr + j)) hi)
  · exact fills.outside a (by omega)

end Sys2Proof.Machine
end

section
/-! PROOF. Commands that move no word (R121, R123, R126, R128, R141, R143 to R149): data-moving ones with an empty buffer, and
those without bit cells. -/

namespace Sys2Proof.Machine

/-- Settles O46: no word stands between the PREP drive, which only hd.read has, and the completion. -/
theorem emptyCommandsOnlyComplete : Obligations.EmptyCommandsOnlyComplete := by
  intro k s _ wf acc empty
  obtain ⟨t, accepts, completes⟩ := everyCommandCompletes k s wf acc
  rw [empty] at completes
  have noWords : bitloop k s = completeCommand (prepare k (accepted k s)) := by
    rw [bitloop_eq, empty, wordsLoop]
  refine ⟨t, _, driveAnswer .sda Level.high (accepted k s), accepts, completes, ?_, ?_⟩
  · rw [noWords, completeCommand_mem, prepare_mem, accepted_mem]
  · rw [noWords, prepare]
    split <;> rfl

/-- R57, R58, R162: a command without bit cells uses no range, so every IDLE state accepts it. -/
theorem acceptable_of_noCells {k : Instr} {s : State} (noCells : movesData k = false) (idle : s.phase = .idle) :
    Acceptable k s := by
  obtain ⟨notTransfer, noRx, noTx⟩ : k ≠ .fdTransfer ∧ usesRx k = false ∧ usesTx k = false := by
    revert noCells
    cases k <;> decide
  refine ⟨idle, lengthsAgree_of_ne notTransfer s, refusalOf_eq_none ?_ fun hk => absurd hk notTransfer⟩
  simp [RangeOutside, noRx, noTx]

/-- R76, R105: what acceptance and completion change together. -/
theorem completeCommand_accepted {k : Instr} {s : State} (idle : s.phase = .idle) :
    completeCommand (accepted k s) =
      { s with op := k.opcode, word := 0, bit := 0, busy := false, history := .complete k.cmd :: s.history } := by
  cases s
  cases idle
  rfl

/-- Settles O42: the keys are those of the operations, the command is accepted whatever its operands, and DONE follows. -/
theorem commandsWithoutCellsOnlyComplete : Obligations.CommandsWithoutCellsOnlyComplete := by
  refine ⟨decodeKey_encode .fdFlush, decodeKey_encode .hdTransfer, decodeKey_encode .hdTransferInPlace,
    decodeKey_encode .hdFlush, ?_⟩
  intro k s hk wf idle
  obtain ⟨noCells, first⟩ : movesData k = false ∧ firstPhase k = .done := by
    revert hk
    cases k <;> decide
  have acc : Acceptable k s := acceptable_of_noCells noCells idle
  have way : UnderWay k (accepted k s) := underWay_accepted wf acc
  obtain ⟨-, lengths, passed⟩ := acc
  refine ⟨_, exec_next_iff.mpr (.accept idle lengths passed), rfl, ?_⟩
  rw [first, way.run_done, completeCommand_accepted idle]

end Sys2Proof.Machine
end

section
/-! PROOF. Faults (R78, R160 to R165, R168): which checks of an issued command apply, in which order, and what is left of the
machine in FAULT. -/

namespace Sys2Proof.Machine

/-! ### FAULT (R160, R168) -/

/-- Settles O37: of the moves that have a step in FAULT, an ignored write and a register read keep the engine. -/
theorem faultIsTerminal : Obligations.FaultIsTerminal := by
  intro s t hp e
  obtain ⟨m, rest, -, hm, -⟩ | ⟨-, -, notFault, -⟩ := step_next_cases e
  · have moved := (step_eq_faultMove hp hm).symm.trans e
    obtain ⟨-, -, -, rfl⟩ | ⟨n, rfl, -⟩ | ⟨v, rfl, -⟩ := faultMove_next_iff.mp moved
    · refine .inr ⟨?_, .inl rfl⟩
      rw [hm]
      rfl
    · cases (step_regRead (.inr hp) hm).symm.trans e
      refine .inr ⟨?_, .inr ⟨n, rest, hm, rfl⟩⟩
      rw [hm]
      rfl
    · exact .inl ⟨v, rest, hm⟩
  · exact absurd hp notFault

/-! ### An illegal command (R78, R163) -/

/-- R163: a byte that does not decode enters FAULT, and its issue does nothing else. -/
theorem step_of_reject {s : State} {c : Word} {rest : List HostMove} {r : Reject} (hp : s.phase = .idle)
    (hm : s.hostMoves = .regWrite 3#3 c.toNat :: rest) (decoded : decodeKey (keyOf s.params.variant c) = .reject r) :
    step s = .next (raiseFault .illegalCmd { s with hostMoves := rest }) := by
  calc step s = regWriteMove .cmd c.toNat { s with hostMoves := rest } := step_eq_idleMove hp hm
    _ = issue (BitVec.ofNat 8 c.toNat) { s with hostMoves := rest } := regWriteMove_cmd c.isLt
    _ = issue c { s with hostMoves := rest } := by rw [BitVec.ofNat_toNat, BitVec.setWidth_eq]
    _ = .next (raiseFault .illegalCmd { s with hostMoves := rest }) := by simp only [issue, decoded]

/-- R71, R73: a byte that decodes is the CMD byte of the operation. -/
theorem cmd_of_decode {v : Variant} {c : Word} {i : Instr} (decoded : decodeKey (keyOf v c) = .op i) : i.cmd = c := by
  have key : keyOf v i.cmd = keyOf v c := by
    rw [← encode_of_decodeKey decoded, encode, variant_of_decode decoded]
  apply BitVec.eq_of_toNat_eq
  have number := congrArg BitVec.toNat key
  rw [keyOf_toNat, keyOf_toNat] at number
  exact Nat.add_left_cancel number

/-- R71, R72: the fields of a CMD byte that R78 calls illegal. -/
def IllegalFields (c : Word) : Prop :=
  c.extractLsb' 3 5 ≠ 0#5 ∨ c.extractLsb' 0 3 = 0#3 ∨ c.extractLsb' 0 3 = 6#3 ∨ c.extractLsb' 0 3 = 7#3

theorem not_illegalFields_cmd (i : Instr) : ¬ IllegalFields i.cmd := by
  unfold IllegalFields
  cases i <;> decide

/-- R78: on neither variant do illegal fields decode. -/
theorem decode_of_illegalFields {c : Word} (illegal : IllegalFields c) (v : Variant) :
    ∃ r, decodeKey (keyOf v c) = .reject r := by
  cases decoded : decodeKey (keyOf v c) with
  | op i => exact absurd (cmd_of_decode decoded ▸ illegal) (not_illegalFields_cmd i)
  | reject r => exact ⟨r, rfl⟩

/-- Settles O11: the byte issued does not decode, and fault entry is all that its issue does. -/
theorem illegalCommandFaults : Obligations.IllegalCommandFaults := by
  intro s c rest hp hm illegal
  obtain ⟨r, decoded⟩ := decode_of_illegalFields illegal s.params.variant
  exact step_of_reject hp hm decoded

/-! ### Unequal lengths (R162) -/

theorem exec_lenMismatch {k : Instr} {s : State} (hp : s.phase = .idle) (mismatch : k = .fdTransfer ∧ s.rxLen ≠ s.txLen) :
    exec k s = .next (raiseFault .lenMismatch s) :=
  StepOf.exec_eq (.mismatch hp (decide_eq_false fun agree => mismatch.2 (agree mismatch.1)))

theorem firstPhase_ne_fault (k : Instr) : firstPhase k ≠ .fault := by
  cases k <;> decide

/-- R97, R162: where the length check holds, no rule of R99 enters FAULT or records a fault. -/
theorem StepOf.no_fault {k : Instr} {s t : State} (rule : StepOf k s t) (lengths : lengthsAgree k s = true) :
    t.phase ≠ .fault ∧ ∀ c, t.history ≠ .fault c :: s.history := by
  cases rule with
  | mismatch _ differ => exact absurd lengths (Bool.eq_false_iff.mp differ)
  | accept => exact ⟨firstPhase_ne_fault k, fun _ => (List.cons_ne_self _ _).symm⟩
  | loadEnd | loadRx => exact ⟨Phase.noConfusion, fun _ => (List.cons_ne_self _ _).symm⟩
  | sampleCell =>
    refine ⟨?_, by simp⟩
    cases transmits k <;> exact Phase.noConfusion
  | prep | loadTx | drive | clkLow | clkHighRx | clkHighCell | clkHighWord | sampleWord | store | done =>
    exact ⟨Phase.noConfusion, by simp⟩

/-- Settles O12: fault entry is the one rule for unequal lengths, and no other operation checks them. -/
theorem lengthMismatchFaults : Obligations.LengthMismatchFaults := by
  refine ⟨fun s hp differ => exec_lenMismatch hp ⟨rfl, differ⟩, ?_⟩
  intro k s t notTransfer e
  obtain ⟨notFault, noEvent⟩ := (exec_next_iff.mp e).no_fault (lengthsAgree_of_ne notTransfer s)
  exact ⟨notFault, (noEvent .lenMismatch).symm⟩

/-! ### The order of the checks (R165) -/

/-- Settles O15: check by check, each where the ones before it do not apply. -/
theorem acceptanceChecksInOrder : Obligations.AcceptanceChecksInOrder := by
  intro s c rest hp hm u
  have idle : u.phase = .idle := hp
  cases decoded : decodeKey (keyOf s.params.variant c) with
  | reject r => exact step_of_reject hp hm decoded
  | op k =>
    rw [stepRunsIssuedCommand s c rest k hp hm decoded, Decoded.toOption]
    dsimp only
    by_cases mismatch : k = .fdTransfer ∧ s.rxLen ≠ s.txLen
    · rw [if_pos mismatch]
      exact exec_lenMismatch idle mismatch
    · rw [if_neg mismatch]
      have lengths : lengthsAgree k u = true := decide_eq_true (not_and_not_right.mp mismatch)
      split_ifs with outside shared
      · exact exec_refused idle lengths (refusalOf_of_rangeOutside outside)
      · obtain ⟨rfl, overlaps⟩ := shared
        obtain ⟨a, inRx, inTx⟩ := exists_shared_of_overlap overlaps
        exact exec_refused idle lengths (refusalOf_of_sharedAddress outside inRx inTx)
      · exact StepOf.exec_eq (.accept idle lengths (refusalOf_eq_none outside (not_and.mp shared)))

end Sys2Proof.Machine
end

section
/-! PROOF. Reset and construction (R47, R190, R192): the first engine and every later one come out of one reset sequence. -/

namespace Sys2Proof.Machine

/-! ### The reset sequence (R190) -/

/-- R190: the events of a reset sequence, newest first, with the answers `r₁` to its drive of SCK and `r₂` to that of SDA. -/
def resetEvents (v : Variant) (r₁ r₂ : DriveAnswer) : List Event :=
  match v with
  | .fd => [.drive .sck Level.high r₁]
  | .hd => [.drive .sda Level.high r₂, .drive .sck Level.high r₁]

/-- R8, R190: the history of a construction is its reset sequence, each drive answered by the pin layer. -/
theorem reconstruct_history (v : Variant) (s : State) : ∃ r₁ r₂ : DriveAnswer,
    (s.params.pinErrors = false → r₁ = .ok ∧ r₂ = .ok) ∧ (reconstruct v s).history = resetEvents v r₁ r₂ := by
  cases v with
  | fd =>
    refine ⟨_, .ok, fun noErrors => ⟨?_, rfl⟩, rfl⟩
    exact driveAnswer_ok noErrors
  | hd =>
    refine ⟨_, _, fun noErrors => ⟨?_, ?_⟩, rfl⟩
    · exact driveAnswer_ok noErrors
    · exact driveAnswer_ok noErrors

@[simp] theorem reconstruct_tx (v : Variant) (s : State) : (reconstruct v s).tx = 0#8 := by
  cases v <;> rfl

@[simp] theorem reconstruct_rx (v : Variant) (s : State) : (reconstruct v s).rx = 0#8 := by
  cases v <;> rfl

@[simp] theorem reconstruct_hostMoves (v : Variant) (s : State) : (reconstruct v s).hostMoves = s.hostMoves := by
  cases v <;> rfl

/-! ### The first engine -/

/-- The first engine is what a construction makes where nothing has been drawn, written or scripted before. -/
theorem construct_eq_reconstruct (p : Params) :
    State.construct p = reconstruct p.variant { State.construct p with draws := 0 } := by
  obtain ⟨variant, addrW, lenW, pinErrors⟩ := p
  cases variant <;> cases pinErrors <;> rfl

theorem linesRecorded_construct (p : Params) : LinesRecorded (State.construct p) := by
  rw [construct_eq_reconstruct]
  exact linesRecorded_reconstruct _ _

theorem statusExact_construct (p : Params) : StatusExact (State.construct p) :=
  ⟨by simp [State.construct], by simp [State.construct], rfl⟩

theorem construct_history (p : Params) : ∃ r₁ r₂ : DriveAnswer,
    (p.pinErrors = false → r₁ = .ok ∧ r₂ = .ok) ∧ (State.construct p).history = resetEvents p.variant r₁ r₂ := by
  rw [construct_eq_reconstruct]
  exact reconstruct_history p.variant { State.construct p with draws := 0 }

/-- R30: CONFIG of the first engine is the bit of its variant. -/
theorem regRead_config_construct (p : Params) :
    regRead .config (State.construct p) = if p.variant = .hd then 1 else 0 :=
  configByte_toNat (State.construct p)

/-- Settles O1: the registers stand at their reset values, and the history is the reset sequence of the variant. -/
theorem constructionGivesResetState : Obligations.ConstructionGivesResetState := by
  intro p
  obtain ⟨r₁, r₂, answers, history⟩ := construct_history p
  have config := regRead_config_construct p
  refine ⟨r₁, r₂, answers, rfl, rfl, rfl, rfl, rfl, rfl, rfl, rfl, rfl, rfl, rfl, rfl, rfl, rfl, rfl, rfl,
    fun fd => ?_, fun hd => ?_⟩
  · rw [fd] at config history
    exact ⟨config, history⟩
  · rw [hd] at config history
    exact ⟨config, rfl, history⟩

/-- Settles O2: the registers are 0, memory is empty, no command is in progress, and the reset sequence has put SCK and
SDA on record. -/
theorem constructedEngineMeetsInvariant : Obligations.ConstructedEngineMeetsInvariant := by
  intro p wf
  have status := statusExact_construct p
  have lines := linesRecorded_construct p
  exact {
    paramsWf := wf
    rxAddrWidth := Nat.two_pow_pos p.addrW
    rxLenWidth := Nat.two_pow_pos p.lenW
    txAddrWidth := Nat.two_pow_pos p.addrW
    txLenWidth := Nat.two_pow_pos p.lenW
    memCanonical := rfl
    memInside := List.forall_mem_nil _
    busyExact := status.busy
    faultExact := status.faulted
    causeExact := status.cause
    clockExact := iff_of_false Bool.noConfusion Phase.noConfusion
    sckRecorded := lines.sck
    mosiRecorded := lines.mosi
    sdaRecorded := lines.sda
    mosiOnlyFd := lines.mosiOnlyFd
    sdaOnlyHd := lines.sdaOnlyHd
    bitBound := Nat.zero_le 8
    opBound := Nat.zero_le 5
    command := Bool.noConfusion }

/-! ### Every later engine -/

/-- R168, R190, R192: in IDLE and in FAULT the construct move is a construction and nothing else. -/
theorem step_construct {s : State} {v : Variant} {rest : List HostMove} (blocked : s.phase = .idle ∨ s.phase = .fault)
    (hm : s.hostMoves = .construct v :: rest) : step s = .next (reconstruct v { s with hostMoves := rest }) := by
  obtain hp | hp := blocked
  · exact step_eq_idleMove hp hm
  · exact step_eq_faultMove hp hm

/-- Settles O38: the step is a construction, which sets every register and records its own reset sequence only. -/
theorem constructionStartsAgain : Obligations.ConstructionStartsAgain := by
  intro s v rest blocked hm
  let u : State := { s with hostMoves := rest }
  obtain ⟨r₁, r₂, answers, history⟩ := reconstruct_history v u
  obtain ⟨phase, sck, mosi, sda, busy, faulted, cause, rxAddr, rxLen, txAddr, txLen, op, word, bit⟩ :=
    reconstruct_fields v u
  exact ⟨reconstruct v u, r₁, r₂, step_construct blocked hm, answers, reconstruct_params v u, phase, sck, mosi, busy,
    faulted, cause, rxAddr, rxLen, txAddr, txLen, op, word, bit, reconstruct_tx v u, reconstruct_rx v u, sda,
    reconstruct_mem v u, reconstruct_hostMoves v u, history⟩

end Sys2Proof.Machine
end
